-- ==== Sys2Proof/Word.lean ====
section
/-! DEFINITION. The one word of PKTCODEC: a byte. Every frame field but the payload is exactly one byte, and all arithmetic
is unsigned (spec/00_scope.md R8, R12). -/

namespace Sys2Proof

/-- One byte, bit 0 the least significant (spec/00_scope.md R8, R11). -/
abbrev Byte := BitVec 8

end Sys2Proof
end

