-- ==== Sys2Proof/Config.lean ====
section
/-! DEFINITION. What an implementation fixes: the eight parameters of spec/00_scope.md R9, which the model takes as arguments
(they are carried in State and never written; notes/assumptions/1.md), and the constants that stand for the values and the
order the spec leaves open. -/

namespace Sys2Proof

/-- The parameters of spec/00_scope.md R9. `maxLen = none` is `MAX_LEN` unbounded. The constraints are
`Params.wellFormed` (Sys2Proof/WellFormed.lean). -/
structure Params where
  /-- `START_MARKER` -/
  startMarker : Byte
  /-- `END_MARKER` -/
  endMarker : Byte
  /-- `ESC_MARKER` -/
  escMarker : Byte
  /-- `ESC_CODE_START` -/
  escCodeStart : Byte
  /-- `ESC_CODE_END` -/
  escCodeEnd : Byte
  /-- `ESC_CODE_ESC` -/
  escCodeEsc : Byte
  /-- `MAX_LEN` -/
  maxLen : Option Nat
  /-- `N_REQ` -/
  nReq : Nat
deriving DecidableEq, Repr

/-- The "recommended value" column of spec/00_scope.md R9. PRESUMED (the spec marks the bytes as general knowledge, not in
source), unsafe where a statement names them: notes/assumptions/2.md. -/
def Params.recommended : Params where
  startMarker := 0x8D
  endMarker := 0xD8
  escMarker := 0xAB
  escCodeStart := 0x05
  escCodeEnd := 0x50
  escCodeEsc := 0x23
  maxLen := none
  nReq := 1

/-- A value the spec does not define: byte register number `which` after the `tick`-th such loss
(spec/10_state.md R35). Safe: nothing can be proved of it. notes/assumptions/6.md. -/
opaque Config.freeByte (tick which : Nat) : Byte

/-- As `Config.freeByte`, for a register that holds a natural number. -/
opaque Config.freeNat (tick which : Nat) : Nat

/-- As `Config.freeByte`, for a register that holds a byte sequence. -/
opaque Config.freeBytes (tick which : Nat) : List Byte

/-- The order in which the engine takes requests that wait together, where no event of the state fixes it
(spec/20_memory.md R60, spec/41_sequence_packet.md R141). Safe: nothing can be proved of it. notes/assumptions/7.md. -/
opaque Config.freeChoice (tick : Nat) : Nat

end Sys2Proof
end

