-- ==== Sys2Proof/Syntax.lean ====
section
/-! DEFINITION. The operations, one constructor for each row of spec/opcode_table.json, and the records they travel with:
the packet record (spec/10_state.md R24) and the request (spec/10_state.md R22). -/

namespace Sys2Proof

/-- The fifteen operations (spec/30_encoding.md R72). Operands travel in the request record, but for the 3-bit flag index of
`FLAGS_TEST`, which the command word holds (R70). Every term is a legal operation: the index has no ninth value. -/
inductive Instr where
  /-- `FLAGS_UNION` (R110) -/
  | flagsUnion
  /-- `FLAGS_TEST.bit` (R111) -/
  | flagsTest (bit : BitVec 3)
  /-- `FLAGS_FROM_BYTE` (R112) -/
  | flagsFromByte
  /-- `FLAGS_TO_BYTE` (R113) -/
  | flagsToByte
  /-- `NODE_PACK` (R114) -/
  | nodePack
  /-- `NODE_UNPACK` (R115) -/
  | nodeUnpack
  /-- `SEQ_NEXT` (R140) -/
  | seqNext
  /-- `PKT_NEW` (R143) -/
  | pktNew
  /-- `PKT_WITH_SOURCE` (R144) -/
  | pktWithSource
  /-- `PKT_WITH_TARGET` (R145) -/
  | pktWithTarget
  /-- `ESCAPE` (R170) -/
  | escape
  /-- `UNESCAPE` (R172) -/
  | unescape
  /-- `CHECKSUM` (R190) -/
  | checksum
  /-- `ENCODE` (R200) -/
  | encode
  /-- `DECODE` (R220) -/
  | decode
deriving DecidableEq, Repr

/-- The packet record (spec/10_state.md R24). `target`, `source` and `errCode` are present exactly when flag bit 4, 5 or 0 is
set; there is no separate presence bit (R25). -/
structure Packet where
  /-- `FLAGS` -/
  flags : Byte
  /-- `TARGET` -/
  target : Byte
  /-- `SOURCE` -/
  source : Byte
  /-- `DEVICE` -/
  device : Byte
  /-- `COMMAND` -/
  command : Byte
  /-- `SEQ` -/
  seq : Byte
  /-- `ERRCODE` -/
  errCode : Byte
  /-- `PAYLOAD`, unescaped -/
  payload : List Byte
deriving DecidableEq, Repr

/-- The packet record with every field zero and no payload. -/
def Packet.zero : Packet where
  flags := 0
  target := 0
  source := 0
  device := 0
  command := 0
  seq := 0
  errCode := 0
  payload := []

/-- The request record (spec/10_state.md R22). -/
structure Request where
  /-- `REQ.CMD`, the command word -/
  cmd : Byte
  /-- `REQ.A` -/
  a : Byte
  /-- `REQ.B` -/
  b : Byte
  /-- `REQ.PKT` -/
  pkt : Packet
  /-- `REQ.BUF` -/
  buf : List Byte
  /-- `REQ.ID`, set by the interface -/
  id : Nat
deriving DecidableEq, Repr

/-- The request of requester 0 with every field zero. -/
def Request.zero : Request where
  cmd := 0
  a := 0
  b := 0
  pkt := Packet.zero
  buf := []
  id := 0

end Sys2Proof
end

