-- ==== Sys2Proof/WellFormed.lean ====
section
/-! DEFINITION. The checks the spec puts on the values the machine is given: the parameters (spec/00_scope.md R9) and the
request record with its packet (spec/10_state.md R22, R24). An `Instr` needs no check: its one field is a 3-bit index, and
every index is legal (spec/40_flags_nodes.md R111). -/

namespace Sys2Proof

/-- The three markers are pairwise distinct (spec/00_scope.md R9). -/
def Params.markersDistinct (P : Params) : Bool :=
  P.startMarker != P.endMarker && P.startMarker != P.escMarker && P.endMarker != P.escMarker

/-- The three escape codes are pairwise distinct (spec/00_scope.md R9). -/
def Params.codesDistinct (P : Params) : Bool :=
  P.escCodeStart != P.escCodeEnd && P.escCodeStart != P.escCodeEsc && P.escCodeEnd != P.escCodeEsc

/-- The byte is one of the three markers: it is in `RESERVED` (spec/00_scope.md R10). -/
def Params.reserved (P : Params) (b : Byte) : Bool :=
  b == P.startMarker || b == P.endMarker || b == P.escMarker

/-- No escape code is a marker (spec/00_scope.md R9, R10). -/
def Params.codesUnreserved (P : Params) : Bool :=
  !P.reserved P.escCodeStart && !P.reserved P.escCodeEnd && !P.reserved P.escCodeEsc

/-- `MAX_LEN` is unbounded or at least 7, the shortest frame (spec/00_scope.md R9). -/
def Params.maxLenLegal (P : Params) : Bool :=
  match P.maxLen with
  | none => true
  | some m => 7 ≤ m

/-- `N_REQ` is at least 1 (spec/00_scope.md R9). -/
def Params.nReqLegal (P : Params) : Bool := 1 ≤ P.nReq

/-- All constraints of spec/00_scope.md R9. -/
def Params.wellFormed (P : Params) : Bool :=
  P.markersDistinct && P.codesDistinct && P.codesUnreserved && P.maxLenLegal && P.nReqLegal

/-- A byte sequence of this length is a buffer of the block: its length is 0 to `MAX_LEN` (spec/20_memory.md R51). -/
def Params.fits (P : Params) (n : Nat) : Bool :=
  match P.maxLen with
  | none => true
  | some m => n ≤ m

/-- The payload is a buffer of the block (spec/10_state.md R24). -/
def Packet.wellFormed (P : Params) (p : Packet) : Bool := P.fits p.payload.length

/-- `REQ.ID` names a requester and both byte sequences are buffers of the block (spec/10_state.md R22). -/
def Request.wellFormed (P : Params) (r : Request) : Bool :=
  decide (r.id < P.nReq) && r.pkt.wellFormed P && P.fits r.buf.length

end Sys2Proof
end

