-- ==== Sys2Proof/Decode.lean ====
section
/-! DEFINITION. The command word: reading it, total on all 256 values and refusing by name (spec/30_encoding.md R70 to R73),
and writing it. -/

namespace Sys2Proof

/-- Why a command word is illegal (spec/30_encoding.md R73). -/
inductive IllegalCommand where
  /-- `OP = 0x0` -/
  | reservedOp
  /-- `RSV = 1` -/
  | reservedBit
  /-- `IMM` is not 0 and the operation is not `FLAGS_TEST` -/
  | immediateNotZero
deriving DecidableEq, Repr

/-- `OP = CMD[3:0]` (R71). -/
def cmdOp (c : Byte) : BitVec 4 := c.extractLsb' 0 4

/-- `IMM = CMD[6:4]` (R71). -/
def cmdImm (c : Byte) : BitVec 3 := c.extractLsb' 4 3

/-- `RSV = CMD[7]` (R71). -/
def cmdRsv (c : Byte) : Bool := c.getLsbD 7

/-- The row of the operation table that `OP` selects, with the immediate of `FLAGS_TEST` (R72). -/
def opRow (op : BitVec 4) (imm : BitVec 3) : Option Instr :=
  match op.toNat with
  | 0x1 => some .flagsUnion
  | 0x2 => some (.flagsTest imm)
  | 0x3 => some .flagsFromByte
  | 0x4 => some .flagsToByte
  | 0x5 => some .nodePack
  | 0x6 => some .nodeUnpack
  | 0x7 => some .seqNext
  | 0x8 => some .pktNew
  | 0x9 => some .pktWithSource
  | 0xA => some .pktWithTarget
  | 0xB => some .escape
  | 0xC => some .unescape
  | 0xD => some .checksum
  | 0xE => some .encode
  | 0xF => some .decode
  | _ => none

/-- Reads a command word: the row by `OP`, then the checks of R73. -/
def decode (c : Byte) : Except IllegalCommand Instr :=
  match opRow (cmdOp c) (cmdImm c) with
  | none => .error .reservedOp
  | some i =>
    if cmdRsv c then .error .reservedBit
    else if cmdImm c ≠ 0 ∧ cmdOp c ≠ 0x2 then .error .immediateNotZero
    else .ok i

/-- The command word is one of the 22 legal ones (R73). -/
def legalCommand (c : Byte) : Bool :=
  match decode c with
  | .ok _ => true
  | .error _ => false

/-- The `OP` code of an operation (R72). -/
def opCode : Instr → BitVec 4
  | .flagsUnion => 0x1
  | .flagsTest _ => 0x2
  | .flagsFromByte => 0x3
  | .flagsToByte => 0x4
  | .nodePack => 0x5
  | .nodeUnpack => 0x6
  | .seqNext => 0x7
  | .pktNew => 0x8
  | .pktWithSource => 0x9
  | .pktWithTarget => 0xA
  | .escape => 0xB
  | .unescape => 0xC
  | .checksum => 0xD
  | .encode => 0xE
  | .decode => 0xF

/-- The `IMM` field of an operation: 0 but for `FLAGS_TEST` (R71). -/
def immField : Instr → BitVec 3
  | .flagsTest bit => bit
  | .flagsUnion | .flagsFromByte | .flagsToByte | .nodePack | .nodeUnpack | .seqNext | .pktNew | .pktWithSource
  | .pktWithTarget | .escape | .unescape | .checksum | .encode | .decode => 0

/-- The command word of an operation: `RSV = 0`, then `IMM`, then `OP` (R71, R72). -/
def encode (i : Instr) : Byte := 0#1 ++ immField i ++ opCode i

/-- The host's question about one row of the opcode table: the operation the decoder reads from the word `w`. Every command
word has 8 bits (R70), so a wider word is none. -/
def decodeTableWord (nbits w : Nat) : Option Instr :=
  if nbits = 8 ∧ w < 256 then
    match decode (BitVec.ofNat 8 w) with
    | .ok i => some i
    | .error _ => none
  else none

end Sys2Proof
end

