-- ==== Sys2Proof/Machine/State.lean ====
section
/-! DEFINITION. The state of PKTCODEC as plain data: everything spec/10_state.md names, the agents around the engine as the
data they hold, and the state after reset. -/

namespace Sys2Proof.Machine

/-- `RSP.STATUS` (spec/30_encoding.md R84). The reserved codes 0x5 to 0xE have no constructor: they are never delivered. -/
inductive Status where
  | ok
  | framingError
  | malformedEscape
  | checksumMismatch
  | truncatedFrame
  | illegalOp
deriving DecidableEq, Repr

/-- `DEC_STATE` (spec/30_encoding.md R87). The reserved codes 0xC to 0xE have no constructor: they are never entered. -/
inductive DecState where
  | start
  | flags
  | target
  | source
  | device
  | command
  | seqNo
  | err
  | data
  | checksum
  | endState
  | validated
  | idle
deriving DecidableEq, Repr

/-- `RSP.ERR` (spec/30_encoding.md R85). An absent field is one whose valid bit is 0. -/
structure ErrRecord where
  /-- `ERR.SUB` -/
  sub : BitVec 2
  /-- `ERR.OFFSET` -/
  offset : Option Nat
  /-- `ERR.EXPECTED` -/
  expected : Option Byte
  /-- `ERR.ACTUAL` -/
  actual : Option Byte
  /-- `ERR.NEEDED`, a `DEC_STATE` code -/
  needed : Option (BitVec 4)
deriving DecidableEq, Repr

/-- The response record (spec/10_state.md R23). A field that is not delivered is absent, not zero. -/
structure Response where
  /-- `RSP.STATUS` -/
  status : Status
  /-- `RSP.ERR` -/
  err : Option ErrRecord := none
  /-- `RSP.R0` -/
  r0 : Option Byte := none
  /-- `RSP.R1` -/
  r1 : Option Byte := none
  /-- `RSP.PKT` -/
  pkt : Option Packet := none
  /-- `RSP.BUF` -/
  buf : Option (List Byte) := none
deriving DecidableEq, Repr

/-- The typed errors with the context each carries (spec/60_exceptions.md R261, R265). -/
inductive CodecError where
  /-- `FramingError`, `MISSING_START` -/
  | missingStart (expected actual : Byte)
  /-- `FramingError`, `MISSING_END` -/
  | missingEnd (offset : Nat) (expected actual : Byte)
  /-- `FramingError`, `TRAILING_BYTES`: the branch of spec/45_decoder.md R233 that is never reached -/
  | trailingBytes (offset : Nat)
  /-- `MalformedEscape`, `BAD_CODE` -/
  | badCode (offset : Nat) (actual : Byte)
  /-- `MalformedEscape`, `TRAILING_ESC` -/
  | trailingEsc (offset : Nat)
  /-- `MalformedEscape`, `RAW_MARKER` -/
  | rawMarker (offset : Nat) (actual : Byte)
  /-- `ChecksumMismatch` -/
  | checksumMismatch (offset : Nat) (expected actual : Byte)
  /-- `TruncatedFrame`, with the state that ran out of input -/
  | truncatedFrame (offset : Nat) (needed : DecState)
  /-- `IllegalOp`, with the command word -/
  | illegalOp (cmd : Byte)
deriving DecidableEq, Repr

/-- The decoder's registers (spec/10_state.md R32). -/
structure DecRegs where
  /-- `DEC_STATE` -/
  state : DecState
  /-- `DEC_POS` -/
  pos : Nat
  /-- `DEC_LEN` -/
  len : Nat
  /-- `DEC_DEND` -/
  dend : Nat
  /-- `DEC_F` -/
  f : Byte
  /-- `DEC_TGT` -/
  tgt : Byte
  /-- `DEC_SRC` -/
  src : Byte
  /-- `DEC_DEV` -/
  dev : Byte
  /-- `DEC_CMD` -/
  cmd : Byte
  /-- `DEC_SEQ` -/
  seq : Byte
  /-- `DEC_ERR` -/
  err : Byte
  /-- `DEC_PAYLOAD` -/
  payload : List Byte
deriving DecidableEq, Repr

/-- What an agent outside the engine does between two engine steps, or a turn of the engine whose order is fixed
(spec/10_state.md R20). -/
inductive Event where
  /-- requester `id` issues the next request it holds (spec/60_exceptions.md R273) -/
  | issue (id : Nat)
  /-- the engine performs the pending request of requester `id`: one admissible order of spec/20_memory.md R60 -/
  | perform (id : Nat)
  /-- the reset source asserts reset (spec/70_reset_and_hazards.md R291) -/
  | reset
deriving DecidableEq, Repr

/-- A behaviour the spec calls a bug and never a hardware behaviour (spec/93_implementation_defined.md, treatment `fault`).
No fault is an error of the codec: those are responses. -/
inductive Fault where
  /-- Raised by `memRead` at an index outside the operand (spec/20_memory.md R52). Safe: no rule does it. -/
  | readOutsideOperand
  /-- Raised by `readField` on a response field or error-record field that was not delivered (spec/10_state.md R23,
  spec/30_encoding.md R85). Safe: only a requester can do it. -/
  | absentField
  /-- Raised by the decoder state machine in a state that has no rule (spec/30_encoding.md R87). Safe: no `DECODE` gets
  there. -/
  | noDecoderRule
deriving DecidableEq, Repr

/-- Why the engine has no step for a request. -/
inductive Refusal where
  /-- An operation without a meaning yet. Safe: nothing can be proved of it. -/
  | notModelled (mnemonic : String)
  /-- Raised by every meaning whose operand or output is longer than `MAX_LEN` (spec/20_memory.md R55: "the engine has no
  step for it"). Safe: it is the spec's own refusal, and never occurs with `MAX_LEN` unbounded. -/
  | lengthExceeded
deriving DecidableEq, Repr

/-- The whole machine (spec/10_state.md). INVENTORY.md lists each field with its rule and its reset value. -/
structure State where
  /-- the parameters of spec/00_scope.md R9, fixed when the block is built -/
  params : Params
  /-- `SEQ_CTR` (R30) -/
  seqCtr : Byte
  /-- the request each requester has issued and the engine has not performed, by requester (R37) -/
  pending : List (Option Request)
  /-- `REQ`: the request the engine has taken (R22) -/
  req : Request
  /-- `RSP`: the response delivered last, if any (R23) -/
  rsp : Option Response
  /-- the last response that reached each requester (R23, spec/60_exceptions.md R273) -/
  inbox : List (Option Response)
  /-- the decoder's registers (R32) -/
  dec : DecRegs
  /-- `ENC_OUT` (R34) -/
  encOut : List Byte
  /-- the requests each requester has still to issue, in its own order (spec/20_memory.md R60) -/
  toIssue : List (List Request)
  /-- what the agents outside do next, oldest first; the engine moves by itself when it is empty -/
  events : List Event
  /-- the model's own counter: how many free values and free choices have been used -/
  freeTick : Nat
deriving DecidableEq, Repr

/-- The decoder's registers after reset: `Idle` (spec/70_reset_and_hazards.md R292). The other eleven hold no value there;
zero and the empty sequence are DESIGN CHOICE, unsafe: notes/assumptions/3.md. -/
def DecRegs.reset : DecRegs where
  state := .idle
  pos := 0
  len := 0
  dend := 0
  f := 0
  tgt := 0
  src := 0
  dev := 0
  cmd := 0
  seq := 0
  err := 0
  payload := []

/-- The state after reset of a block built with the parameters `P` (spec/10_state.md R38, spec/70_reset_and_hazards.md R290
to R294), with nothing issued and nothing to issue. -/
def State.resetOf (P : Params) : State where
  params := P
  seqCtr := 0x00
  pending := List.replicate P.nReq none
  req := Request.zero
  rsp := none
  inbox := List.replicate P.nReq none
  dec := DecRegs.reset
  encOut := []
  toIssue := List.replicate P.nReq []
  events := []
  freeTick := 0

/-- The machine right after reset, built with the spec's recommended parameters (spec/00_scope.md R9;
notes/assumptions/2.md). -/
def State.reset : State := State.resetOf Params.recommended

end Sys2Proof.Machine
end

