-- ==== Sys2Proof/Machine/Ops.lean ====
section
/-! DEFINITION. The operations every meaning is built from: one-byte reads and appends, the length refusal, delivering a
response, raising an error (the only thing an exception is here: spec/60_exceptions.md R260), the loss of the transient
registers, and reset. There is no return from an error to model (spec/60_exceptions.md R269). -/

namespace Sys2Proof.Machine

/-! ## Codes -/

/-- The 4-bit `STATUS` code (spec/30_encoding.md R84). -/
def statusCode : Status → BitVec 4
  | .ok => 0x0
  | .framingError => 0x1
  | .malformedEscape => 0x2
  | .checksumMismatch => 0x3
  | .truncatedFrame => 0x4
  | .illegalOp => 0xF

/-- The 4-bit `DEC_STATE` code (spec/30_encoding.md R87). -/
def decStateCode : DecState → BitVec 4
  | .start => 0x0
  | .flags => 0x1
  | .target => 0x2
  | .source => 0x3
  | .device => 0x4
  | .command => 0x5
  | .seqNo => 0x6
  | .err => 0x7
  | .data => 0x8
  | .checksum => 0x9
  | .endState => 0xA
  | .validated => 0xB
  | .idle => 0xF

/-- The status of each error (spec/60_exceptions.md R261). -/
def errorStatus : CodecError → Status
  | .missingStart _ _ => .framingError
  | .missingEnd _ _ _ => .framingError
  | .trailingBytes _ => .framingError
  | .badCode _ _ => .malformedEscape
  | .trailingEsc _ => .malformedEscape
  | .rawMarker _ _ => .malformedEscape
  | .checksumMismatch _ _ _ => .checksumMismatch
  | .truncatedFrame _ _ => .truncatedFrame
  | .illegalOp _ => .illegalOp

/-- The error record each error writes (spec/60_exceptions.md R265, `SUB` codes spec/30_encoding.md R86). -/
def errorRecord : CodecError → ErrRecord
  | .missingStart expected actual => ⟨0, some 0, some expected, some actual, none⟩
  | .missingEnd offset expected actual => ⟨1, some offset, some expected, some actual, none⟩
  | .trailingBytes offset => ⟨2, some offset, none, none, none⟩
  | .badCode offset actual => ⟨0, some offset, none, some actual, none⟩
  | .trailingEsc offset => ⟨1, some offset, none, none, none⟩
  | .rawMarker offset actual => ⟨2, some offset, none, some actual, none⟩
  | .checksumMismatch offset expected actual => ⟨0, some offset, some expected, some actual, none⟩
  | .truncatedFrame offset needed => ⟨0, some offset, none, none, some (decStateCode needed)⟩
  | .illegalOp cmd => ⟨0, none, none, some cmd, none⟩

/-- The response of an error: `STATUS` and `ERR`, and no other field (spec/60_exceptions.md R262). -/
def errorResponse (e : CodecError) : Response := { status := errorStatus e, err := some (errorRecord e) }

/-! ## Byte sequences -/

/-- How an operation ends early: by a typed error, or at a point the spec calls a bug. -/
inductive Stop where
  /-- `raise` (spec/00_scope.md R14) -/
  | error (e : CodecError)
  /-- a fault of the model -/
  | fault (f : Fault)
deriving DecidableEq, Repr

/-- `In[i]`: byte `i` of the operand; outside it, a fault and no value (spec/20_memory.md R52). -/
def memRead (inp : List Byte) (i : Nat) : Except Stop Byte :=
  match inp[i]? with
  | some b => .ok b
  | none => .error (.fault .readOutsideOperand)

/-- `B[i..j)` (spec/00_scope.md R13). -/
def slice (B : List Byte) (i j : Nat) : List Byte := (B.drop i).take (j - i)

/-- `Emit(v)`: appends one byte to the output (spec/20_memory.md R53). -/
def emit (out : List Byte) (v : Byte) : List Byte := out ++ [v]

/-- `Emit` of each byte of a sequence, in order. -/
def emitAll (out vs : List Byte) : List Byte := out ++ vs

/-- A requester's read of a field that may not have been delivered: a fault where it is absent, not zero
(spec/10_state.md R23, spec/30_encoding.md R85). -/
def readField {α : Type} (field : Option α) : Except Fault α :=
  match field with
  | some v => .ok v
  | none => .error .absentField

/-! ## Length -/

/-- Both byte sequences of the request are within `MAX_LEN`, whether or not the operation reads them
(spec/20_memory.md R55; notes/assumptions/4.md). -/
def operandsFit (P : Params) (r : Request) : Bool := P.fits r.buf.length && P.fits r.pkt.payload.length

/-- Every byte sequence the response delivers is within `MAX_LEN` (spec/20_memory.md R55). -/
def outputFits (P : Params) (r : Response) : Bool :=
  (match r.buf with
    | some B => P.fits B.length
    | none => true) &&
  (match r.pkt with
    | some p => P.fits p.payload.length
    | none => true)

/-! ## State updates -/

/-- Writes `SEQ_CTR`. -/
def State.withSeq (s : State) (v : Byte) : State := { s with seqCtr := v }

/-- Delivers a response: it stands at the response interface and reaches the requester `REQ.ID`, and no other
(spec/10_state.md R23, spec/60_exceptions.md R273). -/
def State.deliver (s : State) (r : Response) : State :=
  { s with rsp := some r, inbox := s.inbox.set s.req.id (some r) }

/-- A free natural number within the width of a register that holds 0 to `MAX_LEN`. -/
def boundNat (P : Params) (n : Nat) : Nat :=
  match P.maxLen with
  | none => n
  | some m => n % (m + 1)

/-- A free byte sequence within the width of a register that holds a buffer. -/
def boundBytes (P : Params) (B : List Byte) : List Byte :=
  match P.maxLen with
  | none => B
  | some m => B.take m

/-- The decoder's registers when no `DECODE` runs: `Idle`, and the other eleven hold undefined values
(spec/10_state.md R35, spec/60_exceptions.md R263; notes/assumptions/6.md). -/
def freeDecRegs (P : Params) (tick : Nat) : DecRegs where
  state := .idle
  pos := boundNat P (Config.freeNat tick 0)
  len := boundNat P (Config.freeNat tick 1)
  dend := Config.freeNat tick 2
  f := Config.freeByte tick 3
  tgt := Config.freeByte tick 4
  src := Config.freeByte tick 5
  dev := Config.freeByte tick 6
  cmd := Config.freeByte tick 7
  seq := Config.freeByte tick 8
  err := Config.freeByte tick 9
  payload := boundBytes P (Config.freeBytes tick 10)

/-- The end of a `DECODE`: its registers lose their values and `DEC_STATE` is `Idle` (spec/45_decoder.md R220). -/
def State.loseDecoder (s : State) : State :=
  { s with dec := freeDecRegs s.params s.freeTick, freeTick := s.freeTick + 1 }

/-- The end of an `ENCODE`: `ENC_OUT` loses its value (spec/10_state.md R34, R35). -/
def State.loseEncoder (s : State) : State :=
  { s with encOut := boundBytes s.params (Config.freeBytes s.freeTick 0), freeTick := s.freeTick + 1 }

/-- Raising an error, the one operation all errors share (spec/60_exceptions.md R262, R263): the response is delivered,
`SEQ_CTR` is not changed, and the decoder's registers lose their values. An illegal command word changes no state at all
(spec/60_exceptions.md R266). -/
def State.raiseError (s : State) (e : CodecError) : State :=
  match e with
  | .illegalOp _ => s.deliver (errorResponse e)
  | _ => s.loseDecoder.deliver (errorResponse e)

/-- Performing an operation with the checks in the order of spec/60_exceptions.md R267: the operand lengths, then what the
operation does (`run`: the state it leaves and the response it would deliver, or where it stopped), with its output's
length before anything is delivered. On a refusal or an error the state `run` built is discarded. -/
def perform (s : State) (run : Except Stop (State × Response)) : Host.Outcome State Fault Refusal :=
  if operandsFit s.params s.req then
    match run with
    | .ok (t, r) => if outputFits s.params r then .next (t.deliver r) else .refused .lengthExceeded
    | .error (.error e) => .next (s.raiseError e)
    | .error (.fault f) => .fault f
  else .refused .lengthExceeded

/-- Performing an operation that cannot fail and writes no state (spec/20_memory.md R59). -/
def answer (s : State) (r : Response) : Host.Outcome State Fault Refusal := perform s (.ok (s, r))

/-- Reset between two steps (spec/70_reset_and_hazards.md R290 to R293): the block's own state is that after reset, the
parameters stay, the requests pending are discarded without a response, and what the agents outside hold stays theirs: the
responses that reached them and what they do next. After it every requester counts as having no request outstanding
(notes/assumptions/17.md). -/
def State.resetBlock (s : State) : State :=
  { State.resetOf s.params with
    inbox := s.inbox, toIssue := s.toIssue, events := s.events, freeTick := s.freeTick }

end Sys2Proof.Machine
end

