-- ==== Sys2Proof/Machine/Checksum.lean ====
section
/-! DEFINITION. The Checksum (spec/43_checksum.md). -/

namespace Sys2Proof.Machine

/-- The 8-bit accumulator after every byte of a sequence: wrapping addition from 0x00 (R190). -/
def byteSum (B : List Byte) : Byte := B.foldl (fun acc b => acc + b) 0x00

/-- `Checksum(B)`: one's complement of the sum modulo 256 (R190). -/
def checksumBytes (B : List Byte) : Byte := 0xFF ^^^ byteSum B

/-- `CHECKSUM` (R190). -/
def execChecksum (s : State) : Host.Outcome State Fault Refusal :=
  answer s { status := .ok, r0 := some (checksumBytes s.req.buf) }

end Sys2Proof.Machine
end

