-- ==== Sys2Proof/Machine/Escaper.lean ====
section
/-! DEFINITION. The Escaper (spec/42_escaper.md; the pairs are spec/30_encoding.md R81, the illegal patterns R82). -/

namespace Sys2Proof.Machine

/-- The escaped form of one byte (spec/30_encoding.md R81). -/
def escapeByte (P : Params) (b : Byte) : List Byte :=
  if b = P.startMarker then [P.escMarker, P.escCodeStart]
  else if b = P.endMarker then [P.escMarker, P.escCodeEnd]
  else if b = P.escMarker then [P.escMarker, P.escCodeEsc]
  else [b]

/-- `Escape(B)` (R170). -/
def escapeBytes (P : Params) : List Byte → List Byte
  | [] => []
  | b :: B => escapeByte P b ++ escapeBytes P B

/-- The marker an escape code stands for (R172). -/
def codeMarker (P : Params) (c : Byte) : Option Byte :=
  if c = P.escCodeStart then some P.startMarker
  else if c = P.escCodeEnd then some P.endMarker
  else if c = P.escCodeEsc then some P.escMarker
  else none

/-- `Unescape(C, base)` (R172). The scan's index is carried in `base`: each byte consumed moves it on by one, so a reported
offset is the index of the offending byte counted from the caller's base. -/
def unescapeBytes (P : Params) : List Byte → Nat → Except CodecError (List Byte)
  | [], _ => .ok []
  | b :: C, base =>
    if b = P.escMarker then
      match C with
      | [] => .error (.trailingEsc base)
      | c :: D =>
        match codeMarker P c with
        | some m => (unescapeBytes P D (base + 2)).map (m :: ·)
        | none => .error (.badCode base c)
    else if b = P.startMarker ∨ b = P.endMarker then .error (.rawMarker base b)
    else (unescapeBytes P C (base + 1)).map (b :: ·)

/-- `ESCAPE` (R170). -/
def execEscape (s : State) : Host.Outcome State Fault Refusal :=
  answer s { status := .ok, buf := some (escapeBytes s.params s.req.buf) }

/-- `UNESCAPE` (R172). -/
def execUnescape (s : State) : Host.Outcome State Fault Refusal :=
  perform s
    (match unescapeBytes s.params s.req.buf 0 with
      | .ok B => .ok (s, { status := .ok, buf := some B })
      | .error e => .error (.error e))

end Sys2Proof.Machine
end

