-- ==== Sys2Proof/Machine/Flags.lean ====
section
/-! DEFINITION. The Flag Set: its bits (spec/10_state.md R27), the three that change a frame's structure (R28), and what they
say of a packet record (R24 to R26) and of a frame's header (spec/30_encoding.md R76). -/

namespace Sys2Proof.Machine

/-- The eight flags (spec/10_state.md R27). -/
inductive Flag where
  | isResponse
  | requestResponse
  | onlyErrorResponse
  | isActivity
  | hasTarget
  | hasSource
  | unused
  | extendedFlags
deriving DecidableEq, Repr

/-- The bit of each flag (spec/10_state.md R27). -/
def flagBit : Flag → Nat
  | .isResponse => 0
  | .requestResponse => 1
  | .onlyErrorResponse => 2
  | .isActivity => 3
  | .hasTarget => 4
  | .hasSource => 5
  | .unused => 6
  | .extendedFlags => 7

/-- The mask of each flag (spec/10_state.md R27). -/
def flagMask (f : Flag) : Byte := 1#8 <<< flagBit f

/-- The flag is in the set. -/
def hasFlag (flags : Byte) (f : Flag) : Bool := flags.getLsbD (flagBit f)

/-- Bitwise union of two flag sets (spec/40_flags_nodes.md R110). -/
def flagsUnion (a b : Byte) : Byte := a ||| b

/-- `zext_8(A[i])`: 0x01 if bit `i` is set, else 0x00 (spec/40_flags_nodes.md R111). -/
def flagsTest (a : Byte) (i : BitVec 3) : Byte := (BitVec.ofBool (a.getLsbD i.toNat)).setWidth 8

/-- The default flags of a new packet, `RequestResponse | IsActivity` (spec/00_scope.md R8). -/
def defaultFlags : Byte := flagsUnion (flagMask .requestResponse) (flagMask .isActivity)

/-- 1 if the flag is in the set, else 0. -/
def flagCount (flags : Byte) (f : Flag) : Nat := if hasFlag flags f then 1 else 0

/-- `H = 5 + nT + nS + nE`, the header length (spec/30_encoding.md R76). -/
def headerLen (flags : Byte) : Nat :=
  5 + flagCount flags .hasTarget + flagCount flags .hasSource + flagCount flags .isResponse

/-- The byte if its flag is set, else 0x00: how an absent field is written (spec/10_state.md R26). -/
def presentOrZero (flags : Byte) (f : Flag) (v : Byte) : Byte := if hasFlag flags f then v else 0x00

/-- `canon(P)`: the record with every absent field 0x00 (spec/10_state.md R26). -/
def canon (p : Packet) : Packet :=
  { p with
    target := presentOrZero p.flags .hasTarget p.target
    source := presentOrZero p.flags .hasSource p.source
    errCode := presentOrZero p.flags .isResponse p.errCode }

end Sys2Proof.Machine
end

