-- ==== Sys2Proof/Machine/Decoder.lean ====
section
/-! DEFINITION. The Decoder (spec/45_decoder.md): the state machine over byte position, one function per state rule, and the
consolidated function of the spec's section 3, which the meaning does not use and the machine is stated to equal. -/

namespace Sys2Proof.Machine

/-! ## The state machine -/

/-- `ReadHeaderByte(S)` (R222). -/
def readHeaderByte (inp : List Byte) (S : DecState) (r : DecRegs) : Except Stop (Byte × DecRegs) :=
  if r.len ≤ r.pos then .error (.error (.truncatedFrame r.pos S))
  else do
    let v ← memRead inp r.pos
    .ok (v, { r with pos := r.pos + 1 })

/-- State `Start` (R223). -/
def decStart (P : Params) (inp : List Byte) (r : DecRegs) : Except Stop DecRegs :=
  if r.len = 0 then .error (.error (.truncatedFrame 0 .start))
  else do
    let b ← memRead inp 0
    if b ≠ P.startMarker then .error (.error (.missingStart P.startMarker b))
    else .ok { r with pos := 1, state := .flags }

/-- State `Flags` (R224). -/
def decFlags (inp : List Byte) (r : DecRegs) : Except Stop DecRegs := do
  let (v, r) ← readHeaderByte inp .flags r
  let next := if hasFlag v .hasTarget then DecState.target else if hasFlag v .hasSource then .source else .device
  .ok { r with f := v, state := next }

/-- State `Target` (R225). -/
def decTarget (inp : List Byte) (r : DecRegs) : Except Stop DecRegs := do
  let (v, r) ← readHeaderByte inp .target r
  .ok { r with tgt := v, state := if hasFlag r.f .hasSource then .source else .device }

/-- State `Source` (R226). -/
def decSource (inp : List Byte) (r : DecRegs) : Except Stop DecRegs := do
  let (v, r) ← readHeaderByte inp .source r
  .ok { r with src := v, state := .device }

/-- State `Device` (R227). -/
def decDevice (inp : List Byte) (r : DecRegs) : Except Stop DecRegs := do
  let (v, r) ← readHeaderByte inp .device r
  .ok { r with dev := v, state := .command }

/-- State `Command` (R228). -/
def decCommand (inp : List Byte) (r : DecRegs) : Except Stop DecRegs := do
  let (v, r) ← readHeaderByte inp .command r
  .ok { r with cmd := v, state := .seqNo }

/-- State `SeqNo` (R229). -/
def decSeqNo (inp : List Byte) (r : DecRegs) : Except Stop DecRegs := do
  let (v, r) ← readHeaderByte inp .seqNo r
  .ok { r with seq := v, state := if hasFlag r.f .isResponse then .err else .data }

/-- State `Err` (R230). -/
def decErr (inp : List Byte) (r : DecRegs) : Except Stop DecRegs := do
  let (v, r) ← readHeaderByte inp .err r
  .ok { r with err := v, state := .data }

/-- State `Data` (R231). -/
def decData (P : Params) (inp : List Byte) (r : DecRegs) : Except Stop DecRegs :=
  if r.len - r.pos < 2 then .error (.error (.truncatedFrame r.len .data))
  else
    let dend := r.len - 2
    match unescapeBytes P (slice inp r.pos dend) r.pos with
    | .error e => .error (.error e)
    | .ok payload => .ok { r with dend := dend, payload := payload, pos := dend, state := .checksum }

/-- State `Checksum` (R232). -/
def decChecksum (inp : List Byte) (r : DecRegs) : Except Stop DecRegs := do
  let c := checksumBytes (slice inp 1 r.dend)
  let v ← memRead inp r.pos
  if v ≠ c then .error (.error (.checksumMismatch r.pos c v))
  else .ok { r with pos := r.pos + 1, state := .endState }

/-- State `End` (R233), with its branch that is never reached. -/
def decEnd (P : Params) (inp : List Byte) (r : DecRegs) : Except Stop DecRegs := do
  let v ← memRead inp r.pos
  if v ≠ P.endMarker then .error (.error (.missingEnd r.pos P.endMarker v))
  else if r.pos + 1 ≠ r.len then .error (.error (.trailingBytes (r.pos + 1)))
  else .ok { r with pos := r.pos + 1, state := .validated }

/-- One turn of the driver: the rule of `DEC_STATE` (R220, R221). -/
def decStep (P : Params) (inp : List Byte) (r : DecRegs) : Except Stop DecRegs :=
  match r.state with
  | .start => decStart P inp r
  | .flags => decFlags inp r
  | .target => decTarget inp r
  | .source => decSource inp r
  | .device => decDevice inp r
  | .command => decCommand inp r
  | .seqNo => decSeqNo inp r
  | .err => decErr inp r
  | .data => decData P inp r
  | .checksum => decChecksum inp r
  | .endState => decEnd P inp r
  | .validated => .error (.fault .noDecoderRule)
  | .idle => .error (.fault .noDecoderRule)

/-- The driver's loop until `Validated`, for at most `fuel` turns (R220). -/
def decLoop (P : Params) (inp : List Byte) : Nat → DecRegs → Except Stop DecRegs
  | 0, r => if r.state = .validated then .ok r else .error (.fault .noDecoderRule)
  | fuel + 1, r =>
    if r.state = .validated then .ok r
    else do
      let r ← decStep P inp r
      decLoop P inp fuel r

/-- The driver's first three assignments; every other register stands as it was (R220). -/
def decInit (inp : List Byte) (r : DecRegs) : DecRegs := { r with len := inp.length, pos := 0, state := .start }

/-- The most state steps a `DECODE` performs (R235). -/
def decMaxSteps : Nat := 12

/-- The packet delivered in state `Validated` (R234). -/
def decPacket (r : DecRegs) : Packet where
  flags := r.f
  target := presentOrZero r.f .hasTarget r.tgt
  source := presentOrZero r.f .hasSource r.src
  device := r.dev
  command := r.cmd
  seq := r.seq
  errCode := presentOrZero r.f .isResponse r.err
  payload := r.payload

/-- A whole `DECODE` of `inp` from the registers `r`: the packet, or where it stopped. -/
def decRun (P : Params) (inp : List Byte) (r : DecRegs) : Except Stop Packet := do
  let r ← decLoop P inp decMaxSteps (decInit inp r)
  .ok (decPacket r)

/-- `DECODE` (R220). -/
def execDecode (s : State) : Host.Outcome State Fault Refusal :=
  perform s
    (match decRun s.params s.req.buf s.dec with
      | .ok p => .ok (s.loseDecoder, { status := .ok, pkt := some p })
      | .error e => .error e)

/-! ## The consolidated function (section 3 of spec/45_decoder.md) -/

/-- `read(S)` of section 3: the byte at `pos` and the next position. -/
def frameRead (inp : List Byte) (pos : Nat) (S : DecState) : Except CodecError (Byte × Nat) :=
  match inp[pos]? with
  | some v => .ok (v, pos + 1)
  | none => .error (.truncatedFrame pos S)

/-- `read(S) if f[i] else 0x00` of section 3. -/
def frameReadIf (c : Bool) (inp : List Byte) (pos : Nat) (S : DecState) : Except CodecError (Byte × Nat) :=
  if c then frameRead inp pos S else .ok (0x00, pos)

/-- The frame's checks after the header, which ends before index `pos`: the escaped payload, the checksum and the end
marker, in this order. -/
def frameTail (P : Params) (inp : List Byte) (pos : Nat) : Except CodecError (List Byte) :=
  let L := inp.length
  if L - pos < 2 then .error (.truncatedFrame L .data)
  else do
    let payload ← unescapeBytes P (slice inp pos (L - 2)) pos
    let c := checksumBytes (slice inp 1 (L - 2))
    if inp.getD (L - 2) 0 ≠ c then .error (.checksumMismatch (L - 2) c (inp.getD (L - 2) 0))
    else if inp.getD (L - 1) 0 ≠ P.endMarker then .error (.missingEnd (L - 1) P.endMarker (inp.getD (L - 1) 0))
    else .ok payload

/-- `Decode(In)` of section 3. -/
def decodeFrame (P : Params) (inp : List Byte) : Except CodecError Packet :=
  match inp with
  | [] => .error (.truncatedFrame 0 .start)
  | b :: _ =>
    if b ≠ P.startMarker then .error (.missingStart P.startMarker b)
    else do
      let (f, pos) ← frameRead inp 1 .flags
      let (tgt, pos) ← frameReadIf (hasFlag f .hasTarget) inp pos .target
      let (src, pos) ← frameReadIf (hasFlag f .hasSource) inp pos .source
      let (dev, pos) ← frameRead inp pos .device
      let (cmd, pos) ← frameRead inp pos .command
      let (seq, pos) ← frameRead inp pos .seqNo
      let (err, pos) ← frameReadIf (hasFlag f .isResponse) inp pos .err
      let payload ← frameTail P inp pos
      .ok ⟨f, tgt, src, dev, cmd, seq, err, payload⟩

end Sys2Proof.Machine
end

