-- ==== Sys2Proof/Machine/Encoder.lean ====
section
/-! DEFINITION. The Encoder (spec/44_encoder.md). -/

namespace Sys2Proof.Machine

/-- `Emit(v)` if the flag is set (R200). -/
def emitIf (out : List Byte) (flags : Byte) (f : Flag) (v : Byte) : List Byte :=
  if hasFlag flags f then emit out v else out

/-- The output up to the last header byte (R200). -/
def encodeHeader (P : Params) (p : Packet) : List Byte :=
  let out := emit [] P.startMarker
  let out := emit out p.flags
  let out := emitIf out p.flags .hasTarget p.target
  let out := emitIf out p.flags .hasSource p.source
  let out := emit out p.device
  let out := emit out p.command
  let out := emit out p.seq
  emitIf out p.flags .isResponse p.errCode

/-- The output up to the last payload byte (R200). -/
def encodeBody (P : Params) (p : Packet) : List Byte :=
  emitAll (encodeHeader P p) (escapeBytes P p.payload)

/-- `Encode(P)`: the final value of `ENC_OUT`, the checksum taken over what was emitted before it except the start marker
(R200, R201). -/
def encodeFrame (P : Params) (p : Packet) : List Byte :=
  let out := encodeBody P p
  let out := emit out (checksumBytes (slice out 1 out.length))
  emit out P.endMarker

/-- `ENCODE` (R200): the frame is built in `ENC_OUT` and delivered from it. -/
def execEncode (s : State) : Host.Outcome State Fault Refusal :=
  let t := { s with encOut := encodeFrame s.params s.req.pkt }
  perform s (.ok (t.loseEncoder, { status := .ok, buf := some t.encOut }))

end Sys2Proof.Machine
end

