-- ==== Sys2Proof/Machine/Operands.lean ====
section
/-! DEFINITION. How an operation reads its operands from the request (spec/30_encoding.md R74) and how the bit fields of a
byte are taken and joined (spec/00_scope.md R11, R12). -/

namespace Sys2Proof.Machine

/-- Bits `[3:0]` of a byte. -/
def lowNibble (b : Byte) : BitVec 4 := b.extractLsb' 0 4

/-- Bits `[7:4]` of a byte. -/
def highNibble (b : Byte) : BitVec 4 := b.extractLsb' 4 4

/-- `zext_8` of a 4-bit field. -/
def zextNibble (n : BitVec 4) : Byte := n.setWidth 8

/-- `{port, node}`: the packed byte of a Node Address (spec/10_state.md R29). -/
def packNode (port node : BitVec 4) : Byte := port ++ node

/-- `port_id` of a packed Node Address (spec/10_state.md R29). -/
def portId (b : Byte) : BitVec 4 := highNibble b

/-- `node_id` of a packed Node Address (spec/10_state.md R29). -/
def nodeId (b : Byte) : BitVec 4 := lowNibble b

/-- `port` of a `NODE_PACK` request: `A[3:0]`; `A[7:4]` is not read (R74). -/
def portOperand (r : Request) : BitVec 4 := lowNibble r.a

/-- `node` of a `NODE_PACK` request: `B[3:0]`; `B[7:4]` is not read (R74). -/
def nodeOperand (r : Request) : BitVec 4 := lowNibble r.b

end Sys2Proof.Machine
end

