-- ==== Sys2Proof/Machine/FlagNode.lean ====
section
/-! DEFINITION. The Flag Set and Node Address operations (spec/40_flags_nodes.md). -/

namespace Sys2Proof.Machine

/-- `FLAGS_UNION` (R110). -/
def execFlagsUnion (s : State) : Host.Outcome State Fault Refusal :=
  answer s { status := .ok, r0 := some (flagsUnion s.req.a s.req.b) }

/-- `FLAGS_TEST.bit` (R111). -/
def execFlagsTest (bit : BitVec 3) (s : State) : Host.Outcome State Fault Refusal :=
  answer s { status := .ok, r0 := some (flagsTest s.req.a bit) }

/-- `FLAGS_FROM_BYTE` (R112). -/
def execFlagsFromByte (s : State) : Host.Outcome State Fault Refusal :=
  answer s { status := .ok, r0 := some s.req.a }

/-- `FLAGS_TO_BYTE` (R113). -/
def execFlagsToByte (s : State) : Host.Outcome State Fault Refusal :=
  answer s { status := .ok, r0 := some s.req.a }

/-- `NODE_PACK` (R114). -/
def execNodePack (s : State) : Host.Outcome State Fault Refusal :=
  answer s { status := .ok, r0 := some (packNode (portOperand s.req) (nodeOperand s.req)) }

/-- `NODE_UNPACK` (R115). -/
def execNodeUnpack (s : State) : Host.Outcome State Fault Refusal :=
  answer s { status := .ok, r0 := some (zextNibble (portId s.req.a)), r1 := some (zextNibble (nodeId s.req.a)) }

end Sys2Proof.Machine
end

