-- ==== Sys2Proof/Machine/SequencePacket.lean ====
section
/-! DEFINITION. The Sequence Generator and packet construction (spec/41_sequence_packet.md). -/

namespace Sys2Proof.Machine

/-- The next sequence number, wrapping at 256 (R140). -/
def nextSeq (c : Byte) : Byte := c + 1

/-- `SEQ_NEXT` (R140). -/
def execSeqNext (s : State) : Host.Outcome State Fault Refusal :=
  let t := s.withSeq (nextSeq s.seqCtr)
  perform s (.ok (t, { status := .ok, r0 := some t.seqCtr }))

/-- The packet of a `PKT_NEW` request with sequence number `seq` (R143). -/
def newPacket (r : Request) (seq : Byte) : Packet where
  flags := defaultFlags
  target := 0x00
  source := 0x00
  device := r.a
  command := r.b
  seq := seq
  errCode := 0x00
  payload := r.buf

/-- `PKT_NEW` (R143). -/
def execPktNew (s : State) : Host.Outcome State Fault Refusal :=
  let t := s.withSeq (nextSeq s.seqCtr)
  perform s (.ok (t, { status := .ok, pkt := some (newPacket s.req t.seqCtr) }))

/-- The record with a source address attached (R144). -/
def withSource (p : Packet) (node : Byte) : Packet :=
  { p with source := node, flags := flagsUnion p.flags (flagMask .hasSource) }

/-- `PKT_WITH_SOURCE` (R144). -/
def execPktWithSource (s : State) : Host.Outcome State Fault Refusal :=
  answer s { status := .ok, pkt := some (withSource s.req.pkt s.req.a) }

/-- The record with a target address attached (R145). -/
def withTarget (p : Packet) (node : Byte) : Packet :=
  { p with target := node, flags := flagsUnion p.flags (flagMask .hasTarget) }

/-- `PKT_WITH_TARGET` (R145). -/
def execPktWithTarget (s : State) : Host.Outcome State Fault Refusal :=
  answer s { status := .ok, pkt := some (withTarget s.req.pkt s.req.a) }

end Sys2Proof.Machine
end

