-- ==== Sys2Proof/Machine/Dispatch.lean ====
section
/-! DEFINITION. One arm per operation: which meaning each constructor of Instr has. -/

namespace Sys2Proof.Machine

def exec (i : Instr) (s : State) : Host.Outcome State Fault Refusal :=
  match i with
  | .flagsUnion => Sys2Proof.Machine.execFlagsUnion s
  | .flagsTest bit => Sys2Proof.Machine.execFlagsTest bit s
  | .flagsFromByte => Sys2Proof.Machine.execFlagsFromByte s
  | .flagsToByte => Sys2Proof.Machine.execFlagsToByte s
  | .nodePack => Sys2Proof.Machine.execNodePack s
  | .nodeUnpack => Sys2Proof.Machine.execNodeUnpack s
  | .seqNext => Sys2Proof.Machine.execSeqNext s
  | .pktNew => Sys2Proof.Machine.execPktNew s
  | .pktWithSource => Sys2Proof.Machine.execPktWithSource s
  | .pktWithTarget => Sys2Proof.Machine.execPktWithTarget s
  | .escape => Sys2Proof.Machine.execEscape s
  | .unescape => Sys2Proof.Machine.execUnescape s
  | .checksum => Sys2Proof.Machine.execChecksum s
  | .encode => Sys2Proof.Machine.execEncode s
  | .decode => Sys2Proof.Machine.execDecode s

end Sys2Proof.Machine
end

