-- ==== Sys2Proof/Machine/Engine.lean ====
section
/-! DEFINITION. The codec engine and the agents around it (spec/10_state.md R20): taking a pending request, decoding its
command word, performing it, the order among requesters (spec/20_memory.md R60), issuing and reset. -/

namespace Sys2Proof.Machine

/-- The engine takes a request: it leaves the pending set and stands in `REQ` (spec/10_state.md R37). -/
def State.accept (s : State) (id : Nat) (r : Request) : State :=
  { s with req := r, pending := s.pending.set id none }

/-- The engine takes the request `r` of requester `id` and performs it, the command word checked first
(spec/60_exceptions.md R266, R267). -/
def performRequest (s : State) (id : Nat) (r : Request) : Host.Outcome State Fault Refusal :=
  match decode r.cmd with
  | .ok i => exec i (s.accept id r)
  | .error _ => .next ((s.accept id r).raiseError (.illegalOp r.cmd))

/-- The engine has a step for the request: it is not refused for length (spec/20_memory.md R55). -/
def hasStep (s : State) (id : Nat) (r : Request) : Bool :=
  match performRequest s id r with
  | .refused .lengthExceeded => false
  | _ => true

/-- The pending requests with their requesters, in the order of the requesters' numbers. -/
def pendingRequests (s : State) : List (Nat × Request) :=
  s.pending.zipIdx.filterMap fun (slot, id) => slot.map fun r => (id, r)

/-- The pending requests the engine has a step for. -/
def candidates (s : State) : List (Nat × Request) :=
  (pendingRequests s).filter fun (id, r) => hasStep s id r

/-- One use of a free choice. -/
def State.useChoice (s : State) : State := { s with freeTick := s.freeTick + 1 }

/-- One of several candidates, in an order left free (spec/20_memory.md R60, spec/41_sequence_packet.md R141). -/
def chosenCandidate (tick : Nat) (c : Nat × Request) (cs : List (Nat × Request)) : Nat × Request :=
  (c :: cs).getD (Config.freeChoice tick % (c :: cs).length) c

/-- The engine moves by itself. With one candidate it performs it; among several it performs one in an order left free
(spec/20_memory.md R60); with none it waits (spec/70_reset_and_hazards.md R294). A request refused for length stays
pending: the engine has no step for it (notes/assumptions/5.md). -/
def engineMove (s : State) : Host.Outcome State Fault Refusal :=
  match candidates s with
  | [] => .next s
  | [(id, r)] => performRequest s id r
  | c :: cs =>
    performRequest s.useChoice (chosenCandidate s.freeTick c cs).1 (chosenCandidate s.freeTick c cs).2

/-- The engine performs requester `id`'s pending request, if it has one the engine has a step for, and else waits. -/
def performEvent (s : State) (id : Nat) : Host.Outcome State Fault Refusal :=
  match s.pending[id]? with
  | some (some r) => if hasStep s id r then performRequest s id r else .next s
  | _ => .next s

/-- Requester `id` issues the next request it holds, and the interface sets `REQ.ID` (spec/10_state.md R22). A requester
with a request outstanding, or with none to issue, waits (spec/10_state.md R37). A requester whose request a reset discarded
counts as having none outstanding, and issues its next request, the abandoned one again only if it stands there: DESIGN
CHOICE, unsafe, notes/assumptions/17.md. -/
def State.issue (s : State) (id : Nat) : State :=
  match s.pending[id]?, s.toIssue[id]? with
  | some none, some (r :: rest) =>
    { s with pending := s.pending.set id (some { r with id := id }), toIssue := s.toIssue.set id rest }
  | _, _ => s

/-- The first event is taken from the list. -/
def State.dropEvent (s : State) : State := { s with events := s.events.tail }

/-- One step of the block and the agents around it: the next event, or, with none, a move of the engine. -/
def engineStep (s : State) : Host.Outcome State Fault Refusal :=
  match s.events with
  | [] => engineMove s
  | .issue id :: _ => .next (s.dropEvent.issue id)
  | .perform id :: _ => performEvent s.dropEvent id
  | .reset :: _ => .next s.dropEvent.resetBlock

/-- The state in which requester 0 alone has a request pending, with this command word and every operand zero, and no event
is due. -/
def State.placeCommand (s : State) (cmd : Byte) : State :=
  { s with
    pending := some { Request.zero with cmd := cmd } :: List.replicate (s.params.nReq - 1) none
    events := [] }

end Sys2Proof.Machine
end

