-- ==== Sys2Proof/Machine/Step.lean ====
section
/-! DEFINITION. The step, and how a command word is put where the next step takes it. -/

namespace Sys2Proof.Machine

/-- One step of the machine (spec/20_memory.md R58: an operation is one atomic step). -/
def step (s : State) : Host.Outcome State Fault Refusal := engineStep s

/-- The state with the command word `w` pending where the next step takes it. PKTCODEC does not fetch
(spec/20_memory.md R63): a command word arrives in a request (notes/assumptions/8.md). A word of more than 8 bits is no
command word, and its low 8 bits stand. -/
def State.withFetchWord (s : State) (_nbits w : Nat) : State := s.placeCommand (BitVec.ofNat 8 w)

end Sys2Proof.Machine
end

