-- ==== Sys2Proof/Safety.lean ====
section
/-! DEFINITION. What a good state is, between two steps, and what a safe run is. -/

namespace Sys2Proof.Machine

/-- The error record is one the spec lets a response with this status deliver: no reserved `SUB` and no `TRAILING_BYTES`
(spec/30_encoding.md R86), `OFFSET` within its width (R85), and `NEEDED` the code of a state that reads input, with
`TRUNCATED_FRAME` and with no other status (spec/60_exceptions.md R265). -/
def legalError (P : Params) (status : Status) (e : ErrRecord) : Bool :=
  (match status with
    | .ok => false
    | .framingError => e.sub.toNat ≤ 1
    | .malformedEscape => e.sub.toNat ≤ 2
    | .checksumMismatch => e.sub == 0
    | .truncatedFrame => e.sub == 0
    | .illegalOp => e.sub == 0) &&
  (match e.offset with
    | some n => P.fits n
    | none => true) &&
  (match e.needed with
    | some n => status == .truncatedFrame && n.toNat ≤ 8
    | none => status != .truncatedFrame)

/-- The response is one the spec lets the block deliver: results and no error record with `OK`, a legal error record and no
result with any other status (spec/10_state.md R23), and buffers within `MAX_LEN` (spec/20_memory.md R55). -/
def legalResponse (P : Params) (r : Response) : Bool :=
  (match r.err with
    | none => r.status == .ok
    | some e => legalError P r.status e && r.r0.isNone && r.r1.isNone && r.pkt.isNone && r.buf.isNone) &&
  outputFits P r

/-- What holds of the machine between any two steps. -/
structure State.Inv (s : State) : Prop where
  /-- the parameters meet their constraints (spec/00_scope.md R9) -/
  params_wellFormed : s.params.wellFormed = true
  /-- one pending slot for each requester (spec/10_state.md R37) -/
  pending_length : s.pending.length = s.params.nReq
  /-- each response port belongs to one requester -/
  inbox_length : s.inbox.length = s.params.nReq
  /-- each requester holds its own requests to issue -/
  toIssue_length : s.toIssue.length = s.params.nReq
  /-- a pending request carries its requester's number (spec/10_state.md R22) -/
  pending_id : ∀ (id : Nat) (r : Request), s.pending[id]? = some (some r) → r.id = id
  /-- `REQ.ID` names a requester (spec/10_state.md R22) -/
  req_id : s.req.id < s.params.nReq
  /-- no `DECODE` runs between two steps (spec/30_encoding.md R87) -/
  dec_idle : s.dec.state = .idle
  /-- `DEC_POS` is within its width (spec/10_state.md R32) -/
  dec_pos : s.params.fits s.dec.pos = true
  /-- `DEC_LEN` is within its width (spec/10_state.md R32) -/
  dec_len : s.params.fits s.dec.len = true
  /-- `DEC_PAYLOAD` is a buffer of the block (spec/10_state.md R32) -/
  dec_payload : s.params.fits s.dec.payload.length = true
  /-- `ENC_OUT` is within its width (spec/10_state.md R34) -/
  encOut_length : s.params.fits s.encOut.length = true
  /-- the response at the interface is a legal one -/
  rsp_legal : ∀ r : Response, s.rsp = some r → legalResponse s.params r = true
  /-- every response that reached a requester is a legal one -/
  inbox_legal : ∀ r : Response, some r ∈ s.inbox → legalResponse s.params r = true

/-- The step from `s` is neither a fault nor a refusal. -/
def State.Answers (s : State) : Prop := ∃ t, step s = .next t

/-- A run from `s` is safe: it never comes to a fault or a refusal, however many steps it takes. -/
def State.Safe (s : State) : Prop :=
  ∀ k, ∃ t, Host.Core.run Sys2Proof.core k s = .next t

end Sys2Proof.Machine
end

