-- ==== Sys2Proof/Certificates/Slice0/Obligations.lean ====
section
/-! DEFINITION. The statements for the provers. The words they are stated in come first (namespace Sys2Proof.Claims): they are
written from the spec a second time, not from the meanings. -/

namespace Sys2Proof.Claims

open Sys2Proof.Machine

/-! ## The words of the statements -/

/-- The length is within `MAX_LEN` (spec/20_memory.md R51). -/
def WithinMaxLen (P : Params) (n : Nat) : Prop := ∀ m, P.maxLen = some m → n ≤ m

/-- Both byte sequences of the request taken are within `MAX_LEN` (spec/20_memory.md R55). -/
def OperandsWithin (s : State) : Prop :=
  WithinMaxLen s.params s.req.buf.length ∧ WithinMaxLen s.params s.req.pkt.payload.length

/-- The response reaches the requester `REQ.ID`, and nothing else changes (spec/10_state.md R23). The registers the spec leaves
undefined between operations are kept too (notes/assumptions/6.md), and `REQ` (notes/assumptions/15.md). -/
def delivered (s : State) (R : Response) : State :=
  { s with rsp := some R, inbox := s.inbox.set s.req.id (some R) }

/-- The response of an error (spec/60_exceptions.md R262). -/
def failure (status : Status) (e : ErrRecord) : Response := { status := status, err := some e }

/-- The operation ended by an error: its response is delivered, the decoder's registers hold undefined values and `DEC_STATE`
is `Idle`, and nothing else changes (spec/60_exceptions.md R262, R263). -/
def Raised (s t : State) (R : Response) : Prop :=
  t = { delivered s R with dec := t.dec, freeTick := t.freeTick } ∧ t.dec.state = .idle

/-- The escaped form of a byte sequence, by the table of spec/30_encoding.md R81. -/
def escaped (P : Params) (B : List Byte) : List Byte :=
  B.flatMap fun b =>
    if b = P.startMarker then [P.escMarker, P.escCodeStart]
    else if b = P.endMarker then [P.escMarker, P.escCodeEnd]
    else if b = P.escMarker then [P.escMarker, P.escCodeEsc]
    else [b]

/-- The illegal pattern that stands at the front of a byte sequence, if one does: its `SUB` and its `ACTUAL`
(spec/30_encoding.md R82, R86). -/
def illegalPattern (P : Params) : List Byte → Option (BitVec 2 × Option Byte)
  | [] => none
  | b :: C =>
    if b = P.escMarker then
      match C with
      | [] => some (1, none)
      | c :: _ => if c = P.escCodeStart ∨ c = P.escCodeEnd ∨ c = P.escCodeEsc then none else some (0, some c)
    else if b = P.startMarker ∨ b = P.endMarker then some (2, some b)
    else none

/-- One's complement of the sum modulo 256 (spec/43_checksum.md R191). -/
def complementOfSum (B : List Byte) : Byte := BitVec.ofNat 8 (255 - (B.map BitVec.toNat).sum % 256)

/-- A byte that is there only under a condition. -/
def presentByte (c : Bool) (v : Byte) : List Byte := if c then [v] else []

/-- The header after the start marker (spec/30_encoding.md R75). -/
def headerOf (p : Packet) : List Byte :=
  p.flags :: (presentByte (p.flags.getLsbD 4) p.target ++ presentByte (p.flags.getLsbD 5) p.source ++
    [p.device, p.command, p.seq] ++ presentByte (p.flags.getLsbD 0) p.errCode)

/-- The frame body: header and escaped payload (spec/43_checksum.md R194). -/
def bodyOf (P : Params) (p : Packet) : List Byte := headerOf p ++ escaped P p.payload

/-- The frame of a packet record, by the table of spec/30_encoding.md R75. -/
def frameOf (P : Params) (p : Packet) : List Byte :=
  P.startMarker :: (bodyOf P p ++ [complementOfSum (bodyOf P p), P.endMarker])

/-- The record with its absent fields 0x00 (spec/10_state.md R26). -/
def canonical (p : Packet) : Packet :=
  { p with
    target := if p.flags.getLsbD 4 then p.target else 0
    source := if p.flags.getLsbD 5 then p.source else 0
    errCode := if p.flags.getLsbD 0 then p.errCode else 0 }

/-- The `DEC_STATE` codes of the states that read a header byte, in the order of the bytes, for a frame with these flags
(spec/45_decoder.md R221, spec/30_encoding.md R87). -/
def headerCodes (flags : Byte) : List (BitVec 4) :=
  [0x0, 0x1] ++ (if flags.getLsbD 4 then [0x2] else []) ++ (if flags.getLsbD 5 then [0x3] else []) ++
    [0x4, 0x5, 0x6] ++ (if flags.getLsbD 0 then [0x7] else [])

/-- The header's length (spec/30_encoding.md R76). -/
def headerLength (flags : Byte) : Nat := (headerCodes flags).length

/-- The code of the state that runs out of input in a buffer, if one does: a header state at the first missing byte, or
`Data` with fewer than two bytes left for the suffix (spec/45_decoder.md R222, R223, R231). -/
def truncatedAt (P : Params) (F : List Byte) : Option (BitVec 4) :=
  match F with
  | [] => some 0x0
  | [b] => if b = P.startMarker then some 0x1 else none
  | b :: f :: _ => if b = P.startMarker then (headerCodes f ++ [0x8, 0x8])[F.length]? else none

/-- The buffer begins with a start marker, its header fits, and `data` is what stands between the header and the last two
bytes `c` and `e` (spec/30_encoding.md R78). -/
def Parts (P : Params) (F : List Byte) (flags : Byte) (data : List Byte) (c e : Byte) : Prop :=
  ∃ header : List Byte, F = P.startMarker :: flags :: (header ++ data ++ [c, e]) ∧
    header.length + 2 = headerLength flags

/-- The two operations that allocate a sequence number. -/
def allocates : Instr → Bool
  | .seqNext => true
  | .pktNew => true
  | .flagsUnion | .flagsTest _ | .flagsFromByte | .flagsToByte | .nodePack | .nodeUnpack | .pktWithSource | .pktWithTarget
  | .escape | .unescape | .checksum | .encode | .decode => false

/-- The sequence number a response to an allocating operation hands out. -/
def handedOut (r : Response) : Option Byte :=
  match r.r0, r.pkt with
  | some v, _ => some v
  | none, some p => some p.seq
  | none, none => none

/-- The engine performs these requests one after another; the sequence numbers the allocating ones handed out, in the order
of performance. -/
def performAll : List Request → State → Option (State × List Byte)
  | [], s => some (s, [])
  | r :: rs, s =>
    match performRequest s r.id r with
    | .next t =>
      match performAll rs t with
      | some (u, vs) =>
        match decode r.cmd, t.rsp.bind handedOut with
        | .ok i, some v => some (u, if allocates i then v :: vs else vs)
        | _, _ => some (u, vs)
      | none => none
    | _ => none

/-- Which result fields a response holds. -/
structure ResultFields where
  r0 : Bool := false
  r1 : Bool := false
  pkt : Bool := false
  buf : Bool := false

/-- The results each operation delivers on `OK` (spec/30_encoding.md R74). -/
def resultsOf : Instr → ResultFields
  | .flagsUnion | .flagsTest _ | .flagsFromByte | .flagsToByte | .nodePack | .seqNext | .checksum => { r0 := true }
  | .nodeUnpack => { r0 := true, r1 := true }
  | .pktNew | .pktWithSource | .pktWithTarget | .decode => { pkt := true }
  | .escape | .unescape | .encode => { buf := true }

/-- Which fields of an error record are valid. -/
structure ErrFields where
  offset : Bool := false
  expected : Bool := false
  actual : Bool := false
  needed : Bool := false

/-- The fields each error writes, by its status and `SUB` (spec/60_exceptions.md R265). -/
def errFieldsOf (status : Status) (sub : BitVec 2) : ErrFields :=
  match status with
  | .ok => {}
  | .framingError => { offset := true, expected := true, actual := true }
  | .malformedEscape => { offset := true, actual := sub != 1 }
  | .checksumMismatch => { offset := true, expected := true, actual := true }
  | .truncatedFrame => { offset := true, needed := true }
  | .illegalOp => { actual := true }

/-- A field reads as a value if it is there, and as a fault if it is not. -/
def Reads {α : Type} (there : Bool) (field : Option α) : Prop :=
  if there then ∃ v, readField field = .ok v else readField field = .error .absentField

/-- The state with the request taken from its requester's slot (spec/10_state.md R22, R37). -/
def taken (s : State) (id : Nat) (r : Request) : State := { s with req := r, pending := s.pending.set id none }

/-- Requester `id`'s request is pending. -/
def Pending (s : State) (id : Nat) (r : Request) : Prop := s.pending[id]? = some (some r)

/-- One flipped bit of one byte of a sequence. -/
def flipBit (F : List Byte) (k bit : Nat) : List Byte := F.modify k fun b => b ^^^ (1#8 <<< bit)

end Sys2Proof.Claims

open Sys2Proof Sys2Proof.Machine Sys2Proof.Claims

/-! ## Command words -/

/-- Every row of R72's table, and the reserved `OP` 0x0. -/
def Obligations.CommandWordsNameTheirOperations : Prop :=
  decode 0x00 = .error .reservedOp ∧
  decode 0x01 = .ok .flagsUnion ∧
  (∀ i : BitVec 3, decode (0x02#8 ||| (i.setWidth 8 <<< 4)) = .ok (.flagsTest i)) ∧
  decode 0x03 = .ok .flagsFromByte ∧ decode 0x04 = .ok .flagsToByte ∧
  decode 0x05 = .ok .nodePack ∧ decode 0x06 = .ok .nodeUnpack ∧
  decode 0x07 = .ok .seqNext ∧ decode 0x08 = .ok .pktNew ∧
  decode 0x09 = .ok .pktWithSource ∧ decode 0x0A = .ok .pktWithTarget ∧
  decode 0x0B = .ok .escape ∧ decode 0x0C = .ok .unescape ∧ decode 0x0D = .ok .checksum ∧
  decode 0x0E = .ok .encode ∧ decode 0x0F = .ok .decode

/-- Decode and encode agree on all operations and on all legal command words. -/
def Obligations.CommandWordsRoundTrip : Prop :=
  (∀ i : Instr, decode (encode i) = .ok i) ∧ (∀ (c : Byte) (i : Instr), decode c = .ok i → encode i = c)

/-- R73: which command words are illegal, how many are legal, and that an illegal one performs nothing and is answered, with
no hypothesis on operands.
The record's other fields are R265's. That `REQ` holds the request afterwards, and that `ENC_OUT` and the decoder's registers are
kept, is the model's reading (notes/assumptions/6.md, 15.md). -/
def Obligations.IllegalCommandWordsAreAnswered : Prop :=
  (∀ c : Byte, legalCommand c = false ↔
    c.toNat % 16 = 0 ∨ c.getLsbD 7 = true ∨ (c.toNat / 16 % 8 ≠ 0 ∧ c.toNat % 16 ≠ 2)) ∧
  (List.range 256).countP (fun n => legalCommand (BitVec.ofNat 8 n)) = 22 ∧
  ∀ (s : State) (id : Nat) (r : Request), legalCommand r.cmd = false →
    performRequest s id r =
      .next (delivered (taken s id r) (failure .illegalOp ⟨0, none, none, some r.cmd, none⟩))

/-! ## What each operation does -/

/-- R110. That `ENC_OUT`, the decoder's registers and `REQ` are kept is the model's reading
(notes/assumptions/6.md, 15.md). -/
def Obligations.FlagsUnionAnswersTheUnion : Prop :=
  decode 0x01 = .ok .flagsUnion ∧
  ∀ s : State, OperandsWithin s →
    exec .flagsUnion s = .next (delivered s { status := .ok, r0 := some (s.req.a ||| s.req.b) })

/-- R111. That `ENC_OUT`, the decoder's registers and `REQ` are kept is the model's reading
(notes/assumptions/6.md, 15.md). -/
def Obligations.FlagsTestAnswersTheBit : Prop :=
  ∀ (i : BitVec 3) (s : State), OperandsWithin s →
    decode (0x02#8 ||| (i.setWidth 8 <<< 4)) = .ok (.flagsTest i) ∧
    exec (.flagsTest i) s =
      .next (delivered s { status := .ok, r0 := some (if s.req.a.getLsbD i.toNat then 0x01 else 0x00) })

/-- R112 and R113. That `ENC_OUT`, the decoder's registers and `REQ` are kept is the model's reading
(notes/assumptions/6.md, 15.md). -/
def Obligations.FlagByteConversionsAreTheIdentity : Prop :=
  decode 0x03 = .ok .flagsFromByte ∧ decode 0x04 = .ok .flagsToByte ∧
  ∀ s : State, OperandsWithin s →
    exec .flagsFromByte s = .next (delivered s { status := .ok, r0 := some s.req.a }) ∧
    exec .flagsToByte s = .next (delivered s { status := .ok, r0 := some s.req.a })

/-- R114. That `ENC_OUT`, the decoder's registers and `REQ` are kept is the model's reading
(notes/assumptions/6.md, 15.md). -/
def Obligations.NodePackJoinsTheNibbles : Prop :=
  decode 0x05 = .ok .nodePack ∧
  ∀ s : State, OperandsWithin s →
    exec .nodePack s =
      .next (delivered s
        { status := .ok, r0 := some (BitVec.ofNat 8 (16 * (s.req.a.toNat % 16) + s.req.b.toNat % 16)) })

/-- R115. That `ENC_OUT`, the decoder's registers and `REQ` are kept is the model's reading
(notes/assumptions/6.md, 15.md). -/
def Obligations.NodeUnpackSplitsTheByte : Prop :=
  decode 0x06 = .ok .nodeUnpack ∧
  ∀ s : State, OperandsWithin s →
    exec .nodeUnpack s =
      .next (delivered s
        { status := .ok, r0 := some (BitVec.ofNat 8 (s.req.a.toNat / 16))
          r1 := some (BitVec.ofNat 8 (s.req.a.toNat % 16)) })

/-- R140. That `ENC_OUT`, the decoder's registers and `REQ` are kept is the model's reading
(notes/assumptions/6.md, 15.md). -/
def Obligations.SeqNextIncrementsAndAnswers : Prop :=
  decode 0x07 = .ok .seqNext ∧
  ∀ s : State, OperandsWithin s →
    exec .seqNext s =
      .next { delivered s { status := .ok, r0 := some (BitVec.ofNat 8 ((s.seqCtr.toNat + 1) % 256)) } with
        seqCtr := BitVec.ofNat 8 ((s.seqCtr.toNat + 1) % 256) }

/-- R143. That `ENC_OUT`, the decoder's registers and `REQ` are kept is the model's reading
(notes/assumptions/6.md, 15.md). -/
def Obligations.PktNewBuildsAPacket : Prop :=
  decode 0x08 = .ok .pktNew ∧
  ∀ s : State, OperandsWithin s →
    exec .pktNew s =
      .next { delivered s
          { status := .ok
            pkt := some { flags := 0x0A, target := 0, source := 0, device := s.req.a, command := s.req.b,
                          seq := s.seqCtr + 1, errCode := 0, payload := s.req.buf } } with
        seqCtr := s.seqCtr + 1 }

/-- R144. That `ENC_OUT`, the decoder's registers and `REQ` are kept is the model's reading
(notes/assumptions/6.md, 15.md). -/
def Obligations.PktWithSourceAttaches : Prop :=
  decode 0x09 = .ok .pktWithSource ∧
  ∀ s : State, OperandsWithin s →
    exec .pktWithSource s =
      .next (delivered s
        { status := .ok
          pkt := some { s.req.pkt with source := s.req.a, flags := s.req.pkt.flags ||| 0x20 } })

/-- R145. That `ENC_OUT`, the decoder's registers and `REQ` are kept is the model's reading
(notes/assumptions/6.md, 15.md). -/
def Obligations.PktWithTargetAttaches : Prop :=
  decode 0x0A = .ok .pktWithTarget ∧
  ∀ s : State, OperandsWithin s →
    exec .pktWithTarget s =
      .next (delivered s
        { status := .ok
          pkt := some { s.req.pkt with target := s.req.a, flags := s.req.pkt.flags ||| 0x10 } })

/-- R170: the escaped bytes are delivered, or, where they are longer than `MAX_LEN`, the request is refused.
That `ENC_OUT`, the decoder's registers and `REQ` are kept is the model's reading
(notes/assumptions/6.md, 15.md). -/
def Obligations.EscapeAnswersTheEscapedBytes : Prop :=
  decode 0x0B = .ok .escape ∧
  ∀ s : State, OperandsWithin s →
    (WithinMaxLen s.params (escaped s.params s.req.buf).length →
      exec .escape s = .next (delivered s { status := .ok, buf := some (escaped s.params s.req.buf) })) ∧
    (¬WithinMaxLen s.params (escaped s.params s.req.buf).length → exec .escape s = .refused .lengthExceeded)

/-- R172 and R173: an escaped sequence is restored; a sequence whose first illegal pattern stands after an escaped prefix is
an error at that index, with no output. Every byte sequence is of exactly one of the two kinds.
That `ENC_OUT` and `REQ` are kept, and with `OK` the decoder's registers, is the model's reading (notes/assumptions/6.md,
15.md). -/
def Obligations.UnescapeRestoresOrReportsTheFirstIllegalPattern : Prop :=
  decode 0x0C = .ok .unescape ∧
  (∀ (s : State) (B : List Byte), s.params.wellFormed = true → OperandsWithin s → s.req.buf = escaped s.params B →
    exec .unescape s = .next (delivered s { status := .ok, buf := some B })) ∧
  (∀ (s : State) (B rest : List Byte) (sub : BitVec 2) (actual : Option Byte),
    s.params.wellFormed = true → OperandsWithin s → s.req.buf = escaped s.params B ++ rest →
    illegalPattern s.params rest = some (sub, actual) →
    ∃ t, exec .unescape s = .next t ∧
      Raised s t (failure .malformedEscape ⟨sub, some (escaped s.params B).length, none, actual, none⟩)) ∧
  (∀ (P : Params) (C : List Byte), P.wellFormed = true →
    ((∃ B, C = escaped P B) ∨ ∃ B rest x, C = escaped P B ++ rest ∧ illegalPattern P rest = some x) ∧
    ¬((∃ B, C = escaped P B) ∧ ∃ B rest x, C = escaped P B ++ rest ∧ illegalPattern P rest = some x))

/-- R190. That `ENC_OUT`, the decoder's registers and `REQ` are kept is the model's reading
(notes/assumptions/6.md, 15.md). -/
def Obligations.ChecksumAnswersTheComplementedSum : Prop :=
  decode 0x0D = .ok .checksum ∧
  ∀ s : State, OperandsWithin s →
    exec .checksum s = .next (delivered s { status := .ok, r0 := some (complementOfSum s.req.buf) })

/-- R200 and R203: the frame of R75's table is delivered, and nothing changes but the response and `ENC_OUT`, of which nothing
is said; where the frame is longer than `MAX_LEN` the request is refused, and it never ends otherwise. That
the decoder's registers and `REQ` are kept is the model's reading (notes/assumptions/6.md, 15.md). -/
def Obligations.EncodeAnswersTheFrame : Prop :=
  decode 0x0E = .ok .encode ∧
  ∀ s : State, OperandsWithin s →
    (WithinMaxLen s.params (frameOf s.params s.req.pkt).length →
      ∃ t, exec .encode s = .next t ∧
        t = { delivered s { status := .ok, buf := some (frameOf s.params s.req.pkt) } with
              encOut := t.encOut, freeTick := t.freeTick }) ∧
    (¬WithinMaxLen s.params (frameOf s.params s.req.pkt).length → exec .encode s = .refused .lengthExceeded)

/-- R238: what the encoder builds of a record decodes to the record with its absent fields 0x00. That
`ENC_OUT` and `REQ` are kept is the model's reading (notes/assumptions/6.md, 15.md). -/
def Obligations.DecodeOfAFrameAnswersThePacket : Prop :=
  decode 0x0F = .ok .decode ∧
  ∀ (s : State) (p : Packet), s.params.wellFormed = true → OperandsWithin s → s.req.buf = encodeFrame s.params p →
    ∃ t, exec .decode s = .next t ∧
      t = { delivered s { status := .ok, pkt := some (canonical p) } with dec := t.dec, freeTick := t.freeTick } ∧
      t.dec.state = .idle

/-! ## How DECODE fails -/

/-- R223: a buffer that does not begin with the start marker.
The record is R265's, and of `Raised`'s frame the kept `ENC_OUT` and `REQ` rest on notes/assumptions/6.md and 15.md. -/
def Obligations.DecodeReportsTheMissingStart : Prop :=
  ∀ (s : State) (b : Byte) (rest : List Byte), OperandsWithin s → s.req.buf = b :: rest → b ≠ s.params.startMarker →
    ∃ t, exec .decode s = .next t ∧
      Raised s t (failure .framingError ⟨0, some 0, some s.params.startMarker, some b, none⟩)

/-- R222, R223 and R231: a buffer that ends before a required field.
The record is R265's, and of `Raised`'s frame the kept `ENC_OUT` and `REQ` rest on notes/assumptions/6.md and 15.md. -/
def Obligations.DecodeReportsTruncation : Prop :=
  ∀ (s : State) (code : BitVec 4), OperandsWithin s → truncatedAt s.params s.req.buf = some code →
    ∃ t, exec .decode s = .next t ∧
      Raised s t (failure .truncatedFrame ⟨0, some s.req.buf.length, none, none, some code⟩)

/-- R231: the first illegal pattern of the data region, at its index in the frame.
The record is R265's, and of `Raised`'s frame the kept `ENC_OUT` and `REQ` rest on notes/assumptions/6.md and 15.md. -/
def Obligations.DecodeReportsTheMalformedEscape : Prop :=
  ∀ (s : State) (flags c e : Byte) (B rest : List Byte) (sub : BitVec 2) (actual : Option Byte),
    s.params.wellFormed = true → OperandsWithin s →
    Parts s.params s.req.buf flags (escaped s.params B ++ rest) c e →
    illegalPattern s.params rest = some (sub, actual) →
    ∃ t, exec .decode s = .next t ∧
      Raised s t (failure .malformedEscape
        ⟨sub, some (headerLength flags + (escaped s.params B).length), none, actual, none⟩)

/-- R232 and R233: a wrong checksum byte, and, with the checksum right, a wrong last byte.
The record is R265's, and of `Raised`'s frame the kept `ENC_OUT` and `REQ` rest on notes/assumptions/6.md and 15.md. -/
def Obligations.DecodeReportsTheSuffix : Prop :=
  ∀ (s : State) (flags c e : Byte) (B : List Byte),
    s.params.wellFormed = true → OperandsWithin s → Parts s.params s.req.buf flags (escaped s.params B) c e →
    (c ≠ complementOfSum (s.req.buf.tail.take (s.req.buf.length - 3)) →
      ∃ t, exec .decode s = .next t ∧
        Raised s t (failure .checksumMismatch
          ⟨0, some (s.req.buf.length - 2), some (complementOfSum (s.req.buf.tail.take (s.req.buf.length - 3))),
            some c, none⟩)) ∧
    (c = complementOfSum (s.req.buf.tail.take (s.req.buf.length - 3)) → e ≠ s.params.endMarker →
      ∃ t, exec .decode s = .next t ∧
        Raised s t (failure .framingError
          ⟨1, some (s.req.buf.length - 1), some s.params.endMarker, some e, none⟩))

/-- R233 and R86: no operation delivers `TRAILING_BYTES` or a reserved `SUB`. -/
def Obligations.TrailingBytesIsNeverDelivered : Prop :=
  ∀ (i : Instr) (s t : State) (r : Response) (e : ErrRecord),
    exec i s = .next t → t.rsp = some r → r.err = some e →
    (r.status = .framingError → e.sub = 0 ∨ e.sub = 1) ∧
    (r.status = .malformedEscape → e.sub = 0 ∨ e.sub = 1 ∨ e.sub = 2) ∧
    (r.status = .checksumMismatch ∨ r.status = .truncatedFrame → e.sub = 0)

/-! ## The decoder's state machine -/

/-- The state machine, from whatever its registers hold, is the consolidated function of section 3. -/
def Obligations.DecoderMachineIsTheConsolidatedFunction : Prop :=
  ∀ (P : Params) (inp : List Byte) (r : DecRegs),
    decRun P inp r =
      match decodeFrame P inp with
      | .ok p => .ok p
      | .error e => .error (.error e)

/-- R221's table of transitions. -/
def Obligations.DecoderTransitionsFollowTheTable : Prop :=
  ∀ (P : Params) (inp : List Byte) (r r' : DecRegs), decStep P inp r = .ok r' →
    (r.state = .start → r'.state = .flags) ∧
    (r.state = .flags → r'.state =
      if r'.f.getLsbD 4 then .target else if r'.f.getLsbD 5 then .source else .device) ∧
    (r.state = .target → r'.state = if r.f.getLsbD 5 then .source else .device) ∧
    (r.state = .source → r'.state = .device) ∧
    (r.state = .device → r'.state = .command) ∧
    (r.state = .command → r'.state = .seqNo) ∧
    (r.state = .seqNo → r'.state = if r.f.getLsbD 0 then .err else .data) ∧
    (r.state = .err → r'.state = .data) ∧
    (r.state = .data → r'.state = .checksum) ∧
    (r.state = .checksum → r'.state = .endState) ∧
    (r.state = .endState → r'.state = .validated) ∧
    r.state ≠ .validated ∧ r.state ≠ .idle

/-- R33: where `DEC_POS` starts, how it moves from a position a `DECODE` can be at, and that a header state at the end of the
buffer, and `Data` with fewer than two bytes left, report the truncation. -/
def Obligations.DecoderPositionNeverGoesBack : Prop :=
  ∀ (P : Params) (inp : List Byte) (r : DecRegs),
    ((decInit inp r).state = .start ∧ (decInit inp r).pos = 0 ∧ (decInit inp r).len = inp.length) ∧
    (r.len = inp.length → r.pos ≤ r.len → (r.state = .start → r.pos = 0) →
      (∀ r', decStep P inp r = .ok r' →
        r.pos ≤ r'.pos ∧ r'.pos ≤ r'.len ∧ r'.len = r.len ∧
        (r.state ≠ .data → r'.pos = r.pos + 1) ∧ (r.state = .data → r'.pos = r.len - 2 ∧ r'.dend = r.len - 2)) ∧
      ((decStateCode r.state).toNat ≤ 7 → r.len ≤ r.pos →
        decStep P inp r = .error (.error (.truncatedFrame r.pos r.state))) ∧
      (r.state = .data → r.len < r.pos + 2 → decStep P inp r = .error (.error (.truncatedFrame r.len .data))))

/-! ## Laws -/

/-- R116. -/
def Obligations.FlagSetLaws : Prop :=
  (∀ a b c : Byte, flagsUnion a b = flagsUnion b a ∧
    flagsUnion (flagsUnion a b) c = flagsUnion a (flagsUnion b c) ∧ flagsUnion a a = a ∧ flagsUnion a 0x00 = a) ∧
  (∀ (a b : Byte) (i : BitVec 3),
    flagsTest (flagsUnion a b) i = 0x01 ↔ flagsTest a i = 0x01 ∨ flagsTest b i = 0x01) ∧
  ∀ (s t : State) (r : Response), exec .flagsFromByte s = .next t ∨ exec .flagsToByte s = .next t → t.rsp = some r →
    r.r0 = some s.req.a

/-- R117 and R29. -/
def Obligations.NodePackingIsABijection : Prop :=
  (∀ p n : BitVec 4, portId (packNode p n) = p ∧ nodeId (packNode p n) = n ∧
    (packNode p n).toNat = 16 * p.toNat + n.toNat) ∧
  ∀ b : Byte, packNode (portId b) (nodeId b) = b

/-- R146. -/
def Obligations.AttachmentLaws : Prop :=
  ∀ (p : Packet) (u v : Byte),
    withSource (withSource p u) v = withSource p v ∧ withTarget (withTarget p u) v = withTarget p v ∧
    withTarget (withSource p u) v = withSource (withTarget p v) u ∧
    withSource (withSource p u) u = withSource p u ∧ withTarget (withTarget p u) u = withTarget p u

/-- R171: no raw marker, and every escape marker begins a pair. -/
def Obligations.EscapeOutputHasNoIllegalPattern : Prop :=
  ∀ (P : Params) (B : List Byte), P.wellFormed = true →
    (∀ b ∈ escapeBytes P B, b ≠ P.startMarker ∧ b ≠ P.endMarker) ∧
    ∀ k, (escapeBytes P B)[k]? = some P.escMarker →
      ∃ c, (escapeBytes P B)[k + 1]? = some c ∧ (c = P.escCodeStart ∨ c = P.escCodeEnd ∨ c = P.escCodeEsc)

/-- R174. -/
def Obligations.EscapeAndUnescapeAreInverse : Prop :=
  ∀ P : Params, P.wellFormed = true →
    (∀ (B : List Byte) (base : Nat), unescapeBytes P (escapeBytes P B) base = .ok B) ∧
    ∀ (C B : List Byte) (base : Nat), unescapeBytes P C base = .ok B → escapeBytes P B = C

/-- R175 and R176: in a sequence that unescapes, each escape marker begins one pair. -/
def Obligations.EscapeLengths : Prop :=
  ∀ (P : Params) (B : List Byte),
    (escapeBytes P B).length = B.length + B.countP P.reserved ∧
    B.length ≤ (escapeBytes P B).length ∧ (escapeBytes P B).length ≤ 2 * B.length ∧
    ∀ (D : List Byte) (base : Nat), P.wellFormed = true → unescapeBytes P B base = .ok D →
      D.length ≤ B.length ∧ B.length ≤ 2 * D.length ∧ B.length = D.length + B.count P.escMarker

/-- R191, the sum taken in any width of at least 8 bits, and R192. -/
def Obligations.ChecksumArithmetic : Prop :=
  (∀ B : List Byte,
    (∀ w, 8 ≤ w → checksumBytes B = 0xFF ^^^ (BitVec.ofNat w (B.map BitVec.toNat).sum).setWidth 8) ∧
    (checksumBytes B).toNat = 255 - (B.map BitVec.toNat).sum % 256 ∧
    ((B.map BitVec.toNat).sum + (checksumBytes B).toNat) % 256 = 0xFF ∧
    checksumBytes (B ++ [checksumBytes B]) = 0x00) ∧
  ∀ B C : List Byte, B.Perm C → checksumBytes B = checksumBytes C

/-- R193: one flipped bit moves the sum by its weight and so changes the checksum; two changed bytes can cancel. -/
def Obligations.ChecksumDetectsASingleBit : Prop :=
  (∀ (B : List Byte) (k bit : Nat), k < B.length → bit < 8 →
    (byteSum (flipBit B k bit) = byteSum B + BitVec.ofNat 8 (2 ^ bit) ∨
      byteSum (flipBit B k bit) = byteSum B - BitVec.ofNat 8 (2 ^ bit)) ∧
    checksumBytes (flipBit B k bit) ≠ checksumBytes B) ∧
  ∀ (B C D : List Byte) (b c : Byte),
    checksumBytes (B ++ (b + 1) :: (C ++ (c - 1) :: D)) = checksumBytes (B ++ b :: (C ++ c :: D))

/-- R76 and R77: where each field of a frame stands, the data region and the suffix, and the frame's length. -/
def Obligations.FrameFieldsStandAtTheirOffsets : Prop :=
  ∀ (P : Params) (p : Packet),
    let nT := if p.flags.getLsbD 4 then 1 else 0
    let nS := if p.flags.getLsbD 5 then 1 else 0
    let nE := if p.flags.getLsbD 0 then 1 else 0
    let H := 5 + nT + nS + nE
    let k := p.payload.length + p.payload.countP P.reserved
    let F := encodeFrame P p
    F[0]? = some P.startMarker ∧ F[1]? = some p.flags ∧
    (nT = 1 → F[2]? = some p.target) ∧ (nS = 1 → F[2 + nT]? = some p.source) ∧
    F[2 + nT + nS]? = some p.device ∧ F[3 + nT + nS]? = some p.command ∧ F[4 + nT + nS]? = some p.seq ∧
    (nE = 1 → F[5 + nT + nS]? = some p.errCode) ∧
    F.length = H + k + 2 ∧ (F.drop H).take k = escaped P p.payload ∧
    F[F.length - 2]? = some (complementOfSum (bodyOf P p)) ∧ F[F.length - 1]? = some P.endMarker ∧
    5 ≤ H ∧ H ≤ 8 ∧ 7 ≤ F.length ∧ F.length ≤ 10 + 2 * p.payload.length

/-- R28 and R204: a flags byte with the same bits 0, 4 and 5 gives the same frame body but for that byte. -/
def Obligations.OtherFlagBitsAreOnlyCarried : Prop :=
  ∀ (P : Params) (p : Packet) (g : Byte), g &&& 0x31 = p.flags &&& 0x31 →
    encodeBody P { p with flags := g } = (encodeBody P p).set 1 g

/-- R205: an absent field has no effect on the frame. -/
def Obligations.AbsentFieldsAreIgnored : Prop :=
  ∀ (P : Params) (p q : Packet), canonical p = canonical q → encodeFrame P p = encodeFrame P q

/-- R239: `DECODE` accepts a buffer exactly when the encoder builds it of some record, and what it delivers encodes to that
very buffer. -/
def Obligations.DecodeAcceptsExactlyTheFrames : Prop :=
  ∀ s : State, s.params.wellFormed = true → OperandsWithin s →
    ((∃ t r, exec .decode s = .next t ∧ t.rsp = some r ∧ r.status = .ok) ↔ ∃ q, s.req.buf = encodeFrame s.params q) ∧
    ∀ t r, exec .decode s = .next t → t.rsp = some r → r.status = .ok →
      ∃ q, r.pkt = some q ∧ canonical q = q ∧ encodeFrame s.params q = s.req.buf

/-- R241: a frame with one bit flipped in its body or its checksum byte is never accepted, and fails with `ChecksumMismatch`
unless a structural flag is flipped and the header no longer fits, or the data region now holds an illegal pattern. -/
def Obligations.SingleBitFlipsAreRejected : Prop :=
  ∀ (s : State) (p : Packet) (k bit : Nat), s.params.wellFormed = true → OperandsWithin s →
    1 ≤ k → k + 2 ≤ (frameOf s.params p).length → bit < 8 → s.req.buf = flipBit (frameOf s.params p) k bit →
    ∃ t r, exec .decode s = .next t ∧ t.rsp = some r ∧
      (r.status = .checksumMismatch ∨
        (r.status = .truncatedFrame ∧ k = 1 ∧ (bit = 0 ∨ bit = 4 ∨ bit = 5) ∧
          ∃ code, truncatedAt s.params s.req.buf = some code) ∨
        (r.status = .malformedEscape ∧ k + 2 < (frameOf s.params p).length ∧
          ∃ flags B rest x c e, Parts s.params s.req.buf flags (escaped s.params B ++ rest) c e ∧
            illegalPattern s.params rest = some x))

/-- R61 and R142: the numbers handed out are the counter's next values in the order of performance, whatever requests of
whatever requesters stand between, and no 256 consecutive ones hold a repeat. -/
def Obligations.SequenceNumbersAreConsecutive : Prop :=
  ∀ (rs : List Request) (s t : State) (vs : List Byte), performAll rs s = some (t, vs) →
    vs = (List.range vs.length).map (fun k => s.seqCtr + BitVec.ofNat 8 (k + 1)) ∧
    t.seqCtr = s.seqCtr + BitVec.ofNat 8 vs.length ∧
    ∀ i j, i < j → j < vs.length → j < i + 256 → vs[i]? ≠ vs[j]?

/-! ## Frames, errors and refusals -/

/-- What an operation that completes leaves unchanged (spec/20_memory.md section 4, spec/10_state.md section 3). That `REQ` is
kept is the model's reading (notes/assumptions/15.md), and so is that `ENC_OUT` and the decoder's registers are kept by an
operation that does not use them: spec/10_state.md R35 leaves their values between operations undefined
(notes/assumptions/6.md). -/
def Obligations.OperationsLeaveTheRestUnchanged : Prop :=
  ∀ (i : Instr) (s t : State), exec i s = .next t →
    t.params = s.params ∧ t.pending = s.pending ∧ t.req = s.req ∧ t.toIssue = s.toIssue ∧ t.events = s.events ∧
    t.inbox.length = s.inbox.length ∧ (∀ k, k ≠ s.req.id → t.inbox[k]? = s.inbox[k]?) ∧
    (s.req.id < s.inbox.length → t.inbox[s.req.id]? = some t.rsp) ∧
    (i ≠ .seqNext → i ≠ .pktNew → t.seqCtr = s.seqCtr) ∧
    (i ≠ .encode → t.encOut = s.encOut) ∧
    (i ≠ .decode → i ≠ .unescape → t.dec = s.dec)

/-- The two allocating operations add one to `SEQ_CTR`, and no other operation writes it; an operation that allocates nothing
ends in the same way from any two states with its request and the parameters in common (spec/20_memory.md section 4). That
all of `REQ` is kept after the operation, and not its buffer and packet record alone, is the model's reading
(notes/assumptions/15.md). -/
def Obligations.OperationsDependOnTheirRequestAlone : Prop :=
  ∀ (i : Instr) (s : State),
    (∀ t, exec i s = .next t → t.req = s.req ∧ t.seqCtr = if allocates i then s.seqCtr + 1 else s.seqCtr) ∧
    ∀ s' : State, allocates i = false → s'.params = s.params → s'.req = s.req →
      (∀ t, exec i s = .next t → ∃ t', exec i s' = .next t' ∧ t'.rsp = t.rsp) ∧
      (∀ x, exec i s = .refused x → exec i s' = .refused x)

/-- R262 and R263: what an error delivers and what it leaves unchanged.
Of `Raised`'s frame the kept `ENC_OUT` and `REQ` rest on notes/assumptions/6.md and 15.md. -/
def Obligations.ErrorsAreAnsweredAndLeaveNoTrace : Prop :=
  ∀ (i : Instr) (s t : State) (r : Response), exec i s = .next t → t.rsp = some r → r.status ≠ .ok →
    (∃ e, r = failure r.status e) ∧ Raised s t r

/-- R266: only `UNESCAPE` and `DECODE` raise an error of their own. -/
def Obligations.OnlyUnescapeAndDecodeRaise : Prop :=
  ∀ (i : Instr) (s t : State), i ≠ .unescape → i ≠ .decode → exec i s = .next t →
    ∃ r, t.rsp = some r ∧ r.status = .ok ∧ r.err = none

/-- R55: an operation is refused exactly when an operand or its output is longer than `MAX_LEN`, and a refused request is
never one the engine has a step for. -/
def Obligations.RefusalIsForLengthAlone : Prop :=
  (∀ (i : Instr) (s : State) (x : Refusal),
    exec i s = .refused x ↔
      x = .lengthExceeded ∧
      (¬OperandsWithin s ∨
        (i = .escape ∧ ¬WithinMaxLen s.params (escaped s.params s.req.buf).length) ∨
        (i = .encode ∧ ¬WithinMaxLen s.params (frameOf s.params s.req.pkt).length))) ∧
  ∀ (s : State) (id : Nat) (r : Request) (i : Instr) (x : Refusal),
    decode r.cmd = .ok i → exec i (taken s id r) = .refused x → hasStep s id r = false

/-- R52 and R87: no operation reads outside its operand and no `DECODE` comes to a state without a rule. -/
def Obligations.OperationsNeverFault : Prop := ∀ (i : Instr) (s : State) (f : Fault), exec i s ≠ .fault f

/-- R79: the longest output of each operation that delivers a buffer. -/
def Obligations.OutputLengthBounds : Prop :=
  ∀ (i : Instr) (s t : State) (r : Response), exec i s = .next t → t.rsp = some r →
    (∀ B, r.buf = some B →
      (i = .escape → B.length ≤ 2 * s.req.buf.length) ∧ (i = .unescape → B.length ≤ s.req.buf.length) ∧
      (i = .encode → B.length ≤ 10 + 2 * s.req.pkt.payload.length)) ∧
    (∀ p, r.pkt = some p → i = .decode → p.payload.length + 7 ≤ s.req.buf.length)

/-- Of every response the engine delivers, the fields delivered are those of R74's table (with `OK`) or the error record alone,
with the fields of R265's table (with any other status); reading any other is a fault, not zero (spec/10_state.md section 3,
spec/30_encoding.md sections 2 and 6, spec/60_exceptions.md section 2). The second clause says it of every typed error, the
third gives one result's value. -/
def Obligations.AbsentFieldsFault : Prop :=
  (∀ (s t : State) (id : Nat) (q : Request) (r : Response), performRequest s id q = .next t → t.rsp = some r →
    (r.status = .ok →
      ∃ i, decode q.cmd = .ok i ∧ Reads (resultsOf i).r0 r.r0 ∧ Reads (resultsOf i).r1 r.r1 ∧
        Reads (resultsOf i).pkt r.pkt ∧ Reads (resultsOf i).buf r.buf ∧ Reads false r.err) ∧
    (r.status ≠ .ok →
      Reads false r.r0 ∧ Reads false r.r1 ∧ Reads false r.pkt ∧ Reads false r.buf ∧
      ∃ e, readField r.err = .ok e ∧
        Reads (errFieldsOf r.status e.sub).offset e.offset ∧ Reads (errFieldsOf r.status e.sub).expected e.expected ∧
        Reads (errFieldsOf r.status e.sub).actual e.actual ∧ Reads (errFieldsOf r.status e.sub).needed e.needed)) ∧
  (∀ e : CodecError,
    readField (errorResponse e).r0 = .error .absentField ∧ readField (errorResponse e).r1 = .error .absentField ∧
    readField (errorResponse e).pkt = .error .absentField ∧ readField (errorResponse e).buf = .error .absentField ∧
    readField (errorResponse e).err = .ok (errorRecord e)) ∧
  ∀ (s t : State) (r : Response), exec .flagsUnion s = .next t → t.rsp = some r →
    readField r.r0 = .ok (s.req.a ||| s.req.b) ∧ readField r.r1 = .error .absentField ∧
    readField r.pkt = .error .absentField ∧ readField r.buf = .error .absentField ∧
    readField r.err = .error .absentField

/-- R84's table. -/
def Obligations.StatusCodesAreTheTable : Prop :=
  statusCode .ok = 0x0 ∧ statusCode .framingError = 0x1 ∧ statusCode .malformedEscape = 0x2 ∧
  statusCode .checksumMismatch = 0x3 ∧ statusCode .truncatedFrame = 0x4 ∧ statusCode .illegalOp = 0xF ∧
  ∀ x : Status, (statusCode x).toNat < 5 ∨ (statusCode x).toNat = 15

/-! ## The engine and the agents around it -/

/-- A step with one request pending, or a turn given to its requester, is `exec` of the operation its command word decodes
to, in the state with the request taken; where the operation is refused for length, there is no step for it and nothing
changes (the request stays pending: notes/assumptions/5.md). -/
def Obligations.StepRunsTheDecodedOperation : Prop :=
  ∀ (s s0 : State) (id : Nat) (r : Request) (i : Instr),
    ((s.events = [] ∧ s0 = s ∧ ∀ k q, Pending s k q → k = id) ∨
      ∃ es, s.events = .perform id :: es ∧ s0 = { s with events := es }) →
    Pending s id r → decode r.cmd = .ok i →
    (exec i (taken s0 id r) ≠ .refused .lengthExceeded → step s = exec i (taken s0 id r)) ∧
    (exec i (taken s0 id r) = .refused .lengthExceeded → step s = .next s0)

/-- At the step (spec/60_exceptions.md section 3): an illegal command word is answered, whatever the lengths of its operands.
That `REQ` holds the request afterwards, and that `ENC_OUT` and the decoder's registers are kept, is the model's reading
(notes/assumptions/6.md, 15.md). -/
def Obligations.StepAnswersAnIllegalCommand : Prop :=
  ∀ (s : State) (es : List Event) (id : Nat) (r : Request),
    s.events = .perform id :: es → Pending s id r → legalCommand r.cmd = false →
    step s =
      .next (delivered (taken { s with events := es } id r) (failure .illegalOp ⟨0, none, none, some r.cmd, none⟩))

/-- With several requests pending the engine performs one of those it has a step for, and which one is free
(spec/20_memory.md section 5; notes/assumptions/7.md). -/
def Obligations.EnginePerformsOneOfThePending : Prop :=
  ∀ s : State, s.events = [] → (∃ id r, Pending s id r ∧ hasStep s id r = true) →
    ∃ id r n, Pending s id r ∧ hasStep s id r = true ∧ step s = performRequest { s with freeTick := n } id r

/-- Program 6 of spec/95_test_vectors.md: two requesters each with a `PKT_NEW` pending get the next two numbers, one each, in either
order (the order is free: notes/assumptions/7.md). -/
def Obligations.TwoProducersGetDistinctNumbers : Prop :=
  ∀ (s : State) (i j : Nat) (q r : Request), s.Inv → s.events = [] → i ≠ j →
    Pending s i q → Pending s j r → (∀ k x, Pending s k x → k = i ∨ k = j) →
    q.cmd = 0x08 → r.cmd = 0x08 → q.wellFormed s.params = true → r.wellFormed s.params = true →
    ∃ t u x y, step s = .next t ∧ step t = .next u ∧ u.seqCtr = s.seqCtr + 2 ∧
      u.inbox[i]? = some (some x) ∧ u.inbox[j]? = some (some y) ∧
      ((x.pkt.map Packet.seq = some (s.seqCtr + 1) ∧ y.pkt.map Packet.seq = some (s.seqCtr + 2)) ∨
        (x.pkt.map Packet.seq = some (s.seqCtr + 2) ∧ y.pkt.map Packet.seq = some (s.seqCtr + 1)))

/-- A requester issues only with nothing outstanding, and the interface sets `REQ.ID` (spec/10_state.md sections 3 and 10).
That it waits otherwise is the model's choice (notes/assumptions/10.md), and so is that a slot a reset emptied is filled like
any other (notes/assumptions/17.md). -/
def Obligations.IssuingFillsTheEmptySlot : Prop :=
  ∀ (s : State) (es : List Event) (id : Nat), s.events = .issue id :: es →
    (∀ r rest, s.pending[id]? = some none → s.toIssue[id]? = some (r :: rest) →
      step s = .next { s with
        events := es, pending := s.pending.set id (some { r with id := id }), toIssue := s.toIssue.set id rest }) ∧
    (∀ r, Pending s id r → step s = .next { s with events := es })

/-- With no more events every pending request the engine has a step for is performed, within as many steps as there are
requesters: no such request is left pending, and, from a state that meets the invariant, some step of this run performs it and
its requester holds in the end the response that this step delivered (spec/60_exceptions.md section 6). That the engine then
moves at every step is the model's choice (notes/assumptions/10.md), and `n` is the free-value counter, which choosing among
several requests advances first (notes/assumptions/7.md). -/
def Obligations.PendingRequestsArePerformed : Prop :=
  ∀ s : State, s.events = [] →
    ∃ t, Host.Core.run Sys2Proof.core s.pending.length s = .next t ∧
      (∀ id r, Pending t id r → Pending s id r ∧ hasStep t id r = false) ∧
      (s.Inv → ∀ id r, Pending s id r → hasStep s id r = true →
        ∃ k w n v x, k < s.pending.length ∧
          Host.Core.run Sys2Proof.core k s = .next w ∧ Pending w id r ∧
          performRequest { w with freeTick := n } id r = .next v ∧ Host.Core.run Sys2Proof.core (k + 1) s = .next v ∧
          v.rsp = some x ∧ t.inbox[id]? = some (some x))

/-- The parameters never change, and `SEQ_CTR` changes only by an allocation, which adds one, and by reset
(spec/10_state.md section 7). -/
def Obligations.OnlyAllocationsAndResetWriteTheCounter : Prop :=
  ∀ s t : State, step s = .next t →
    t.params = s.params ∧
    (t.seqCtr = s.seqCtr ∨
      (∃ id r i, Pending s id r ∧ decode r.cmd = .ok i ∧ allocates i = true ∧ t.pending[id]? = some none ∧
        t.seqCtr = s.seqCtr + 1) ∨
      ∃ es, s.events = .reset :: es ∧ t.seqCtr = 0x00)

/-! ## Reset, invariants, safety -/

/-- R38: the values after reset that the spec gives, for a block built with any parameters; of the registers it leaves
unspecified nothing is said. -/
def Obligations.ResetValues : Prop :=
  ∀ P : Params,
    (State.resetOf P).seqCtr = 0x00 ∧ (∀ id r, ¬Pending (State.resetOf P) id r) ∧
    decStateCode (State.resetOf P).dec.state = 0xF ∧ (State.resetOf P).rsp = none ∧
    (∀ r, some r ∉ (State.resetOf P).inbox) ∧ (State.resetOf P).params = P

/-- What reset between two steps does (spec/70_reset_and_hazards.md section 1). That the response interface is cleared and the
responses that reached the requesters stay is the model's reading (notes/assumptions/9.md); of the transient registers but
`DEC_STATE`, and of `REQ`, nothing is said. -/
def Obligations.ResetDiscardsAndKeeps : Prop :=
  ∀ (s : State) (es : List Event), s.events = .reset :: es →
    ∃ t, step s = .next t ∧ t.dec.state = .idle ∧
      t = { s with
        seqCtr := 0x00, pending := List.replicate s.params.nReq none, rsp := none, events := es
        req := t.req, dec := t.dec, encOut := t.encOut }

/-- The invariant holds after reset of a block built with any parameters that meet their constraints. The parameters of
State.reset and its transient registers are the model's choice (notes/assumptions/2.md, 3.md). -/
def Obligations.ResetMeetsTheInvariant : Prop :=
  State.reset.Inv ∧ ∀ P : Params, P.wellFormed = true → (State.resetOf P).Inv

/-- Every step keeps the invariant: the pending set stays one slot a requester, each with its number; every response stays a
legal one; the decoder stays idle between steps; registers stay within their widths, their free values too
(notes/assumptions/6.md). -/
def Obligations.StepKeepsTheInvariant : Prop := ∀ s t : State, s.Inv → step s = .next t → t.Inv

/-- Every step answers a next state: no run ever comes to a fault or a refusal (a request refused for length is none the
engine steps on: notes/assumptions/5.md). -/
def Obligations.EveryRunIsSafe : Prop := ∀ s : State, s.Answers ∧ s.Safe
end

