-- ==== Sys2Proof/Laws/State.lean ====
section
/-! SUPPORT. One lemma for each field and each state update, so that no proof unfolds a record update. -/

namespace Sys2Proof.Machine.State

variable (s : State)

@[simp] theorem withSeq_params (v : Byte) : (s.withSeq v).params = s.params := rfl
@[simp] theorem withSeq_seqCtr (v : Byte) : (s.withSeq v).seqCtr = v := rfl
@[simp] theorem withSeq_pending (v : Byte) : (s.withSeq v).pending = s.pending := rfl
@[simp] theorem withSeq_req (v : Byte) : (s.withSeq v).req = s.req := rfl
@[simp] theorem withSeq_rsp (v : Byte) : (s.withSeq v).rsp = s.rsp := rfl
@[simp] theorem withSeq_inbox (v : Byte) : (s.withSeq v).inbox = s.inbox := rfl
@[simp] theorem withSeq_dec (v : Byte) : (s.withSeq v).dec = s.dec := rfl
@[simp] theorem withSeq_encOut (v : Byte) : (s.withSeq v).encOut = s.encOut := rfl
@[simp] theorem withSeq_toIssue (v : Byte) : (s.withSeq v).toIssue = s.toIssue := rfl
@[simp] theorem withSeq_events (v : Byte) : (s.withSeq v).events = s.events := rfl
@[simp] theorem withSeq_freeTick (v : Byte) : (s.withSeq v).freeTick = s.freeTick := rfl

@[simp] theorem deliver_params (r : Response) : (s.deliver r).params = s.params := rfl
@[simp] theorem deliver_seqCtr (r : Response) : (s.deliver r).seqCtr = s.seqCtr := rfl
@[simp] theorem deliver_pending (r : Response) : (s.deliver r).pending = s.pending := rfl
@[simp] theorem deliver_req (r : Response) : (s.deliver r).req = s.req := rfl
@[simp] theorem deliver_rsp (r : Response) : (s.deliver r).rsp = some r := rfl
@[simp] theorem deliver_inbox (r : Response) : (s.deliver r).inbox = s.inbox.set s.req.id (some r) := rfl
@[simp] theorem deliver_dec (r : Response) : (s.deliver r).dec = s.dec := rfl
@[simp] theorem deliver_encOut (r : Response) : (s.deliver r).encOut = s.encOut := rfl
@[simp] theorem deliver_toIssue (r : Response) : (s.deliver r).toIssue = s.toIssue := rfl
@[simp] theorem deliver_events (r : Response) : (s.deliver r).events = s.events := rfl
@[simp] theorem deliver_freeTick (r : Response) : (s.deliver r).freeTick = s.freeTick := rfl

@[simp] theorem loseDecoder_params : (s.loseDecoder).params = s.params := rfl
@[simp] theorem loseDecoder_seqCtr : (s.loseDecoder).seqCtr = s.seqCtr := rfl
@[simp] theorem loseDecoder_pending : (s.loseDecoder).pending = s.pending := rfl
@[simp] theorem loseDecoder_req : (s.loseDecoder).req = s.req := rfl
@[simp] theorem loseDecoder_rsp : (s.loseDecoder).rsp = s.rsp := rfl
@[simp] theorem loseDecoder_inbox : (s.loseDecoder).inbox = s.inbox := rfl
@[simp] theorem loseDecoder_dec : (s.loseDecoder).dec = freeDecRegs s.params s.freeTick := rfl
@[simp] theorem loseDecoder_encOut : (s.loseDecoder).encOut = s.encOut := rfl
@[simp] theorem loseDecoder_toIssue : (s.loseDecoder).toIssue = s.toIssue := rfl
@[simp] theorem loseDecoder_events : (s.loseDecoder).events = s.events := rfl
@[simp] theorem loseDecoder_freeTick : (s.loseDecoder).freeTick = s.freeTick + 1 := rfl

@[simp] theorem loseEncoder_params : (s.loseEncoder).params = s.params := rfl
@[simp] theorem loseEncoder_seqCtr : (s.loseEncoder).seqCtr = s.seqCtr := rfl
@[simp] theorem loseEncoder_pending : (s.loseEncoder).pending = s.pending := rfl
@[simp] theorem loseEncoder_req : (s.loseEncoder).req = s.req := rfl
@[simp] theorem loseEncoder_rsp : (s.loseEncoder).rsp = s.rsp := rfl
@[simp] theorem loseEncoder_inbox : (s.loseEncoder).inbox = s.inbox := rfl
@[simp] theorem loseEncoder_dec : (s.loseEncoder).dec = s.dec := rfl
@[simp] theorem loseEncoder_encOut : (s.loseEncoder).encOut = boundBytes s.params (Config.freeBytes s.freeTick 0) := rfl
@[simp] theorem loseEncoder_toIssue : (s.loseEncoder).toIssue = s.toIssue := rfl
@[simp] theorem loseEncoder_events : (s.loseEncoder).events = s.events := rfl
@[simp] theorem loseEncoder_freeTick : (s.loseEncoder).freeTick = s.freeTick + 1 := rfl

@[simp] theorem accept_params (id : Nat) (r : Request) : (s.accept id r).params = s.params := rfl
@[simp] theorem accept_seqCtr (id : Nat) (r : Request) : (s.accept id r).seqCtr = s.seqCtr := rfl
@[simp] theorem accept_pending (id : Nat) (r : Request) : (s.accept id r).pending = s.pending.set id none := rfl
@[simp] theorem accept_req (id : Nat) (r : Request) : (s.accept id r).req = r := rfl
@[simp] theorem accept_rsp (id : Nat) (r : Request) : (s.accept id r).rsp = s.rsp := rfl
@[simp] theorem accept_inbox (id : Nat) (r : Request) : (s.accept id r).inbox = s.inbox := rfl
@[simp] theorem accept_dec (id : Nat) (r : Request) : (s.accept id r).dec = s.dec := rfl
@[simp] theorem accept_encOut (id : Nat) (r : Request) : (s.accept id r).encOut = s.encOut := rfl
@[simp] theorem accept_toIssue (id : Nat) (r : Request) : (s.accept id r).toIssue = s.toIssue := rfl
@[simp] theorem accept_events (id : Nat) (r : Request) : (s.accept id r).events = s.events := rfl
@[simp] theorem accept_freeTick (id : Nat) (r : Request) : (s.accept id r).freeTick = s.freeTick := rfl

@[simp] theorem useChoice_params : (s.useChoice).params = s.params := rfl
@[simp] theorem useChoice_seqCtr : (s.useChoice).seqCtr = s.seqCtr := rfl
@[simp] theorem useChoice_pending : (s.useChoice).pending = s.pending := rfl
@[simp] theorem useChoice_req : (s.useChoice).req = s.req := rfl
@[simp] theorem useChoice_rsp : (s.useChoice).rsp = s.rsp := rfl
@[simp] theorem useChoice_inbox : (s.useChoice).inbox = s.inbox := rfl
@[simp] theorem useChoice_dec : (s.useChoice).dec = s.dec := rfl
@[simp] theorem useChoice_encOut : (s.useChoice).encOut = s.encOut := rfl
@[simp] theorem useChoice_toIssue : (s.useChoice).toIssue = s.toIssue := rfl
@[simp] theorem useChoice_events : (s.useChoice).events = s.events := rfl
@[simp] theorem useChoice_freeTick : (s.useChoice).freeTick = s.freeTick + 1 := rfl

@[simp] theorem dropEvent_params : (s.dropEvent).params = s.params := rfl
@[simp] theorem dropEvent_seqCtr : (s.dropEvent).seqCtr = s.seqCtr := rfl
@[simp] theorem dropEvent_pending : (s.dropEvent).pending = s.pending := rfl
@[simp] theorem dropEvent_req : (s.dropEvent).req = s.req := rfl
@[simp] theorem dropEvent_rsp : (s.dropEvent).rsp = s.rsp := rfl
@[simp] theorem dropEvent_inbox : (s.dropEvent).inbox = s.inbox := rfl
@[simp] theorem dropEvent_dec : (s.dropEvent).dec = s.dec := rfl
@[simp] theorem dropEvent_encOut : (s.dropEvent).encOut = s.encOut := rfl
@[simp] theorem dropEvent_toIssue : (s.dropEvent).toIssue = s.toIssue := rfl
@[simp] theorem dropEvent_events : (s.dropEvent).events = s.events.tail := rfl
@[simp] theorem dropEvent_freeTick : (s.dropEvent).freeTick = s.freeTick := rfl

@[simp] theorem resetBlock_params : (s.resetBlock).params = s.params := rfl
@[simp] theorem resetBlock_seqCtr : (s.resetBlock).seqCtr = 0x00 := rfl
@[simp] theorem resetBlock_pending : (s.resetBlock).pending = List.replicate s.params.nReq none := rfl
@[simp] theorem resetBlock_req : (s.resetBlock).req = Request.zero := rfl
@[simp] theorem resetBlock_rsp : (s.resetBlock).rsp = none := rfl
@[simp] theorem resetBlock_inbox : (s.resetBlock).inbox = s.inbox := rfl
@[simp] theorem resetBlock_dec : (s.resetBlock).dec = DecRegs.reset := rfl
@[simp] theorem resetBlock_encOut : (s.resetBlock).encOut = [] := rfl
@[simp] theorem resetBlock_toIssue : (s.resetBlock).toIssue = s.toIssue := rfl
@[simp] theorem resetBlock_events : (s.resetBlock).events = s.events := rfl
@[simp] theorem resetBlock_freeTick : (s.resetBlock).freeTick = s.freeTick := rfl

@[simp] theorem raiseError_params (e : CodecError) : (s.raiseError e).params = s.params := by cases e <;> rfl
@[simp] theorem raiseError_seqCtr (e : CodecError) : (s.raiseError e).seqCtr = s.seqCtr := by cases e <;> rfl
@[simp] theorem raiseError_pending (e : CodecError) : (s.raiseError e).pending = s.pending := by cases e <;> rfl
@[simp] theorem raiseError_req (e : CodecError) : (s.raiseError e).req = s.req := by cases e <;> rfl
@[simp] theorem raiseError_encOut (e : CodecError) : (s.raiseError e).encOut = s.encOut := by cases e <;> rfl
@[simp] theorem raiseError_toIssue (e : CodecError) : (s.raiseError e).toIssue = s.toIssue := by cases e <;> rfl
@[simp] theorem raiseError_events (e : CodecError) : (s.raiseError e).events = s.events := by cases e <;> rfl
@[simp] theorem raiseError_rsp (e : CodecError) : (s.raiseError e).rsp = some (errorResponse e) := by cases e <;> rfl
@[simp] theorem raiseError_inbox (e : CodecError) :
    (s.raiseError e).inbox = s.inbox.set s.req.id (some (errorResponse e)) := by cases e <;> rfl

end Sys2Proof.Machine.State
end

