-- ==== Sys2Proof/Laws/Ops.lean ====
section
/-! SUPPORT. For each shared operation, once, everything it can do. -/

namespace Sys2Proof.Machine

theorem memRead_eq_ok {inp : List Byte} {i : Nat} {b : Byte} : memRead inp i = .ok b ↔ inp[i]? = some b := by
  unfold memRead
  cases inp[i]? <;> simp

theorem memRead_of_lt {inp : List Byte} {i : Nat} (h : i < inp.length) : memRead inp i = .ok inp[i] := by
  simp [memRead_eq_ok, h]

theorem memRead_eq_error {inp : List Byte} {i : Nat} {e : Stop} :
    memRead inp i = .error e ↔ inp.length ≤ i ∧ e = .fault .readOutsideOperand := by
  unfold memRead
  cases h : inp[i]? with
  | some b =>
    have hlt := (List.getElem?_eq_some_iff.1 h).1
    simp [hlt]
  | none => simp [List.getElem?_eq_none_iff.1 h, eq_comm]

theorem readField_eq_ok {α : Type} {field : Option α} {v : α} : readField field = .ok v ↔ field = some v := by
  cases field <;> simp [readField]

theorem readField_eq_error {α : Type} {field : Option α} {f : Fault} :
    readField field = .error f ↔ field = none ∧ f = .absentField := by
  cases field <;> simp [readField, eq_comm]

theorem fits_iff {P : Params} {n : Nat} : P.fits n = true ↔ ∀ m, P.maxLen = some m → n ≤ m := by
  unfold Params.fits
  cases P.maxLen <;> simp

theorem fits_mono {P : Params} {m n : Nat} (h : m ≤ n) (hn : P.fits n = true) : P.fits m = true :=
  fits_iff.2 fun k hk => h.trans (fits_iff.1 hn k hk)

theorem fits_boundNat (P : Params) (n : Nat) : P.fits (boundNat P n) = true := by
  refine fits_iff.2 fun m hm => ?_
  simpa [boundNat, hm] using Nat.le_of_lt_succ (Nat.mod_lt n m.succ_pos)

theorem fits_boundBytes (P : Params) (B : List Byte) : P.fits (boundBytes P B).length = true := by
  refine fits_iff.2 fun m hm => ?_
  simp [boundBytes, hm]

theorem operandsFit_iff {P : Params} {r : Request} :
    operandsFit P r = true ↔ P.fits r.buf.length = true ∧ P.fits r.pkt.payload.length = true := by
  simp [operandsFit]

/-- What `raiseError` leaves: an illegal command word changes no register, any other error loses the decoder's. -/
theorem raiseError_cases (s : State) (e : CodecError) :
    (∃ c, e = .illegalOp c ∧ s.raiseError e = s.deliver (errorResponse e)) ∨
    ((∀ c, e ≠ .illegalOp c) ∧ s.raiseError e = s.loseDecoder.deliver (errorResponse e)) := by
  cases e <;> simp [State.raiseError]

theorem perform_ok {s t : State} {r : Response} (hs : operandsFit s.params s.req = true)
    (hr : outputFits s.params r = true) : perform s (.ok (t, r)) = .next (t.deliver r) := by
  simp [perform, hs, hr]

theorem perform_error {s : State} {e : CodecError} (hs : operandsFit s.params s.req = true) :
    perform s (.error (.error e)) = .next (s.raiseError e) := by
  simp [perform, hs]

/-- If `perform` answers a next state, the request fits, and the operation either ended with `OK` and its output fits, or
raised an error. -/
theorem perform_next {s t : State} {run : Except Stop (State × Response)} (h : perform s run = .next t) :
    operandsFit s.params s.req = true ∧
    ((∃ u r, run = .ok (u, r) ∧ outputFits s.params r = true ∧ t = u.deliver r) ∨
     (∃ e, run = .error (.error e) ∧ t = s.raiseError e)) := by
  unfold perform at h
  split at h
  · rename_i hs
    refine ⟨hs, ?_⟩
    split at h
    · rename_i u r
      split at h
      · rename_i hr
        exact .inl ⟨u, r, rfl, hr, by simpa using h.symm⟩
      · cases h
    · rename_i e
      exact .inr ⟨e, rfl, by simpa using h.symm⟩
    · cases h
  · cases h

theorem perform_fault {s : State} {run : Except Stop (State × Response)} {f : Fault} (h : perform s run = .fault f) :
    operandsFit s.params s.req = true ∧ run = .error (.fault f) := by
  unfold perform at h
  split at h
  · rename_i hs
    refine ⟨hs, ?_⟩
    split at h
    · split at h <;> cases h
    · cases h
    · cases h; rfl
  · cases h

theorem perform_refused {s : State} {run : Except Stop (State × Response)} {r : Refusal}
    (h : perform s run = .refused r) :
    r = .lengthExceeded ∧
    (operandsFit s.params s.req = false ∨ ∃ t o, run = .ok (t, o) ∧ outputFits s.params o = false) := by
  unfold perform at h
  split at h
  · split at h
    · rename_i t o
      split at h
      · cases h
      · rename_i ho
        cases h
        exact ⟨rfl, .inr ⟨t, o, rfl, by simpa using ho⟩⟩
    · cases h
    · cases h
  · rename_i hs
    cases h
    exact ⟨rfl, .inl (by simpa using hs)⟩

theorem answer_next {s t : State} {r : Response} (h : answer s r = .next t) :
    operandsFit s.params s.req = true ∧ outputFits s.params r = true ∧ t = s.deliver r := by
  obtain ⟨hs, ⟨u, o, hrun, ho, rfl⟩ | ⟨e, hrun, -⟩⟩ := perform_next h
  · cases hrun
    exact ⟨hs, ho, rfl⟩
  · cases hrun

theorem answer_not_fault {s : State} {r : Response} {f : Fault} : answer s r ≠ .fault f := by
  intro h
  cases (perform_fault h).2

end Sys2Proof.Machine
end

