-- ==== Sys2Proof/Laws/Codec.lean ====
section
/-! SUPPORT. The small lemmas of the codec's functions: the flags, emitting, the cases of the escaper, the accumulator, and
the header reads of the decoder. -/

namespace Sys2Proof.Machine

/-! ## Flags -/

@[simp] theorem hasFlag_isResponse (b : Byte) : hasFlag b .isResponse = b.getLsbD 0 := rfl
@[simp] theorem hasFlag_hasTarget (b : Byte) : hasFlag b .hasTarget = b.getLsbD 4 := rfl
@[simp] theorem hasFlag_hasSource (b : Byte) : hasFlag b .hasSource = b.getLsbD 5 := rfl

theorem defaultFlags_eq : defaultFlags = 0x0A := by decide
theorem flagMask_hasTarget : flagMask .hasTarget = 0x10 := by decide
theorem flagMask_hasSource : flagMask .hasSource = 0x20 := by decide

/-! ## Output -/

theorem emitIf_eq (out : List Byte) (flags : Byte) (f : Flag) (v : Byte) :
    emitIf out flags f v = out ++ if hasFlag flags f then [v] else [] := by
  unfold emitIf emit
  split <;> simp

@[simp] theorem slice_full (B : List Byte) (i : Nat) : slice B i B.length = B.drop i := by
  simp [slice]

theorem slice_length (B : List Byte) (i j : Nat) (h : j ≤ B.length) : (slice B i j).length = j - i := by
  simp [slice]
  omega

/-! ## Escaper -/

theorem escapeBytes_append (P : Params) (B C : List Byte) :
    escapeBytes P (B ++ C) = escapeBytes P B ++ escapeBytes P C := by
  induction B with
  | nil => rfl
  | cons b B ih => simp [escapeBytes, ih]

theorem unescapeBytes_pair {P : Params} {c m : Byte} (hm : codeMarker P c = some m) (D : List Byte) (base : Nat) :
    unescapeBytes P (P.escMarker :: c :: D) base = (unescapeBytes P D (base + 2)).map (m :: ·) := by
  simp [unescapeBytes, hm]

theorem unescapeBytes_badCode {P : Params} {c : Byte} (hc : codeMarker P c = none) (D : List Byte) (base : Nat) :
    unescapeBytes P (P.escMarker :: c :: D) base = .error (.badCode base c) := by
  simp [unescapeBytes, hc]

theorem unescapeBytes_trailing (P : Params) (base : Nat) :
    unescapeBytes P [P.escMarker] base = .error (.trailingEsc base) := by
  simp [unescapeBytes]

theorem unescapeBytes_raw {P : Params} {b : Byte} (hb : b ≠ P.escMarker) (hm : b = P.startMarker ∨ b = P.endMarker)
    (C : List Byte) (base : Nat) : unescapeBytes P (b :: C) base = .error (.rawMarker base b) := by
  cases C <;> simp [unescapeBytes, hb, hm]

theorem unescapeBytes_plain {P : Params} {b : Byte} (hb : b ≠ P.escMarker) (hs : b ≠ P.startMarker)
    (he : b ≠ P.endMarker) (C : List Byte) (base : Nat) :
    unescapeBytes P (b :: C) base = (unescapeBytes P C (base + 1)).map (b :: ·) := by
  cases C <;> simp [unescapeBytes, hb, hs, he]

/-! ## Checksum -/

theorem foldl_add_eq (B : List Byte) (a : Byte) : B.foldl (fun acc b => acc + b) a = a + byteSum B := by
  unfold byteSum
  induction B generalizing a with
  | nil => simp
  | cons b B ih =>
    simp only [List.foldl_cons]
    rw [ih (a + b), ih (0x00 + b), BitVec.add_assoc]
    simp

@[simp] theorem byteSum_nil : byteSum [] = 0x00 := rfl

@[simp] theorem byteSum_cons (b : Byte) (B : List Byte) : byteSum (b :: B) = b + byteSum B := by
  simpa [byteSum] using foldl_add_eq B (0x00 + b)

@[simp] theorem byteSum_append (B C : List Byte) : byteSum (B ++ C) = byteSum B + byteSum C := by
  induction B with
  | nil => simp
  | cons b B ih => simp [ih, BitVec.add_assoc]

/-! ## Decoder -/

/-- A header read answers the byte and moves on by one, runs out of input, or reads outside its operand. -/
theorem readHeaderByte_cases (inp : List Byte) (S : DecState) (r : DecRegs) :
    (r.len ≤ r.pos ∧ readHeaderByte inp S r = .error (.error (.truncatedFrame r.pos S))) ∨
    (∃ v, r.pos < r.len ∧ inp[r.pos]? = some v ∧ readHeaderByte inp S r = .ok (v, { r with pos := r.pos + 1 })) ∨
    (r.pos < r.len ∧ inp[r.pos]? = none ∧ readHeaderByte inp S r = .error (.fault .readOutsideOperand)) := by
  unfold readHeaderByte
  split
  · rename_i h
    exact .inl ⟨h, rfl⟩
  · rename_i h
    cases hv : inp[r.pos]? with
    | some v => exact .inr (.inl ⟨v, by omega, rfl, by simp [memRead, hv, bind, Except.bind]⟩)
    | none => exact .inr (.inr ⟨by omega, rfl, by simp [memRead, hv, bind, Except.bind]⟩)

theorem readHeaderByte_ok {inp : List Byte} {S : DecState} {r : DecRegs} {v : Byte} (hlt : r.pos < r.len)
    (hv : inp[r.pos]? = some v) : readHeaderByte inp S r = .ok (v, { r with pos := r.pos + 1 }) := by
  simp [readHeaderByte, Nat.not_le.2 hlt, memRead, hv, bind, Except.bind]

theorem readHeaderByte_truncated {inp : List Byte} {S : DecState} {r : DecRegs} (h : r.len ≤ r.pos) :
    readHeaderByte inp S r = .error (.error (.truncatedFrame r.pos S)) := by
  simp [readHeaderByte, h]

end Sys2Proof.Machine
end

