-- ==== Sys2Proof/Laws/Engine.lean ====
section
/-! SUPPORT. What one step can do. -/

namespace Sys2Proof.Machine

theorem performRequest_legal {s : State} {id : Nat} {r : Request} {i : Instr} (h : decode r.cmd = .ok i) :
    performRequest s id r = exec i (s.accept id r) := by
  simp [performRequest, h]

theorem performRequest_illegal {s : State} {id : Nat} {r : Request} {e : IllegalCommand} (h : decode r.cmd = .error e) :
    performRequest s id r = .next ((s.accept id r).raiseError (.illegalOp r.cmd)) := by
  simp [performRequest, h]

theorem hasStep_of_next {s t : State} {id : Nat} {r : Request} (h : performRequest s id r = .next t) :
    hasStep s id r = true := by
  simp [hasStep, h]

theorem hasStep_eq_false {s : State} {id : Nat} {r : Request} :
    hasStep s id r = false ↔ performRequest s id r = .refused .lengthExceeded := by
  unfold hasStep
  split <;> simp_all

theorem mem_pendingRequests {s : State} {id : Nat} {r : Request} :
    (id, r) ∈ pendingRequests s ↔ s.pending[id]? = some (some r) := by
  simp [pendingRequests, List.mem_filterMap, List.mem_zipIdx_iff_getElem?]

theorem mem_candidates {s : State} {id : Nat} {r : Request} :
    (id, r) ∈ candidates s ↔ s.pending[id]? = some (some r) ∧ hasStep s id r = true := by
  simp [candidates, mem_pendingRequests]

theorem chosenCandidate_mem (tick : Nat) (c : Nat × Request) (cs : List (Nat × Request)) :
    chosenCandidate tick c cs ∈ c :: cs := by
  have hlt : Config.freeChoice tick % (c :: cs).length < (c :: cs).length := Nat.mod_lt _ (by simp)
  unfold chosenCandidate
  rw [List.getD_eq_getElem _ _ hlt]
  exact List.getElem_mem hlt

/-- A move of the engine waits, performs the one candidate, or performs one of several. -/
theorem engineMove_cases (s : State) :
    (candidates s = [] ∧ engineMove s = .next s) ∨
    (∃ id r, candidates s = [(id, r)] ∧ engineMove s = performRequest s id r) ∨
    (∃ id r, 2 ≤ (candidates s).length ∧ (id, r) ∈ candidates s ∧ engineMove s = performRequest s.useChoice id r) := by
  unfold engineMove
  split
  · rename_i h
    exact .inl ⟨h, rfl⟩
  · rename_i id r h
    exact .inr (.inl ⟨id, r, h, rfl⟩)
  · rename_i c cs hne h
    refine .inr (.inr ⟨_, _, ?_, h ▸ chosenCandidate_mem s.freeTick c cs, rfl⟩)
    cases cs with
    | nil => exact (hne c.1 c.2 rfl rfl).elim
    | cons d ds => simp [h]

/-- A turn fixed by an event performs the requester's pending request or waits. -/
theorem performEvent_cases (s : State) (id : Nat) :
    performEvent s id = .next s ∨
    ∃ r, s.pending[id]? = some (some r) ∧ hasStep s id r = true ∧ performEvent s id = performRequest s id r := by
  unfold performEvent
  split
  · rename_i r h
    split
    · rename_i hs
      exact .inr ⟨r, h, hs, rfl⟩
    · exact .inl rfl
  · exact .inl rfl

/-- Issuing changes nothing, or moves the requester's next request into its empty slot. -/
theorem issue_cases (s : State) (id : Nat) :
    s.issue id = s ∨
    ∃ r rest, s.pending[id]? = some none ∧ s.toIssue[id]? = some (r :: rest) ∧
      s.issue id =
        { s with pending := s.pending.set id (some { r with id := id }), toIssue := s.toIssue.set id rest } := by
  unfold State.issue
  split
  · rename_i r rest h1 h2
    exact .inr ⟨r, rest, h1, h2, rfl⟩
  · exact .inl rfl

/-- A run whose first step answers goes on from there. -/
theorem run_succ_of_step (M : Host.Core) {s t : M.State} (h : M.step s = .next t) (k : Nat) :
    M.run (k + 1) s = M.run k t := by
  simp only [Host.Core.run, h]

/-- A run of this machine whose first step answers goes on from there. -/
theorem run_succ {s t : State} (h : step s = .next t) (k : Nat) :
    Host.Core.run Sys2Proof.core (k + 1) s = Host.Core.run Sys2Proof.core k t :=
  run_succ_of_step Sys2Proof.core h k

/-- Everything a step can do. -/
theorem step_cases (s : State) :
    (s.events = [] ∧ step s = engineMove s) ∨
    (∃ id es, s.events = .issue id :: es ∧ step s = .next (s.dropEvent.issue id)) ∨
    (∃ id es, s.events = .perform id :: es ∧ step s = performEvent s.dropEvent id) ∨
    (∃ es, s.events = .reset :: es ∧ step s = .next s.dropEvent.resetBlock) := by
  unfold step engineStep
  split
  · rename_i h
    exact .inl ⟨h, rfl⟩
  · rename_i id es h
    exact .inr (.inl ⟨id, es, h, rfl⟩)
  · rename_i id es h
    exact .inr (.inr (.inl ⟨id, es, h, rfl⟩))
  · rename_i es h
    exact .inr (.inr (.inr ⟨es, h, rfl⟩))

end Sys2Proof.Machine
end

