-- ==== Sys2Proof/Laws/PerInstr.lean ====
section
/-! SUPPORT. Families of statements made for every operation, one lemma per constructor. -/

namespace Sys2Proof.Laws

/-- The encoder writes a legal command word: `RSV` is 0, `OP` is not the reserved 0x0, and `IMM` is 0 but for `FLAGS_TEST`
(spec/30_encoding.md R71, R73). -/
def EncodeLegal.Statement (i : Instr) : Prop :=
  cmdRsv (encode i) = false ∧ cmdOp (encode i) ≠ 0x0 ∧ (cmdOp (encode i) = 0x2 ∨ cmdImm (encode i) = 0)

theorem EncodeLegal.flagsUnion : EncodeLegal.Statement .flagsUnion := by unfold EncodeLegal.Statement; decide
theorem EncodeLegal.flagsTest : ∀ bit, EncodeLegal.Statement (.flagsTest bit) := by
  unfold EncodeLegal.Statement; decide
theorem EncodeLegal.flagsFromByte : EncodeLegal.Statement .flagsFromByte := by unfold EncodeLegal.Statement; decide
theorem EncodeLegal.flagsToByte : EncodeLegal.Statement .flagsToByte := by unfold EncodeLegal.Statement; decide
theorem EncodeLegal.nodePack : EncodeLegal.Statement .nodePack := by unfold EncodeLegal.Statement; decide
theorem EncodeLegal.nodeUnpack : EncodeLegal.Statement .nodeUnpack := by unfold EncodeLegal.Statement; decide
theorem EncodeLegal.seqNext : EncodeLegal.Statement .seqNext := by unfold EncodeLegal.Statement; decide
theorem EncodeLegal.pktNew : EncodeLegal.Statement .pktNew := by unfold EncodeLegal.Statement; decide
theorem EncodeLegal.pktWithSource : EncodeLegal.Statement .pktWithSource := by unfold EncodeLegal.Statement; decide
theorem EncodeLegal.pktWithTarget : EncodeLegal.Statement .pktWithTarget := by unfold EncodeLegal.Statement; decide
theorem EncodeLegal.escape : EncodeLegal.Statement .escape := by unfold EncodeLegal.Statement; decide
theorem EncodeLegal.unescape : EncodeLegal.Statement .unescape := by unfold EncodeLegal.Statement; decide
theorem EncodeLegal.checksum : EncodeLegal.Statement .checksum := by unfold EncodeLegal.Statement; decide
theorem EncodeLegal.encode : EncodeLegal.Statement .encode := by unfold EncodeLegal.Statement; decide
theorem EncodeLegal.decode : EncodeLegal.Statement .decode := by unfold EncodeLegal.Statement; decide

end Sys2Proof.Laws
end

