-- ==== Sys2Proof/Tests/Slice0.lean ====
section
/-! SUPPORT. Tests on the spec's own vectors (spec/95_test_vectors.md) and words written out from the encoding tables, and one
witness for each statement that has hypotheses. -/

namespace Sys2Proof.Tests

open Sys2Proof.Machine Sys2Proof.Claims

/-! ## Helpers -/

/-- The recommended parameters with 2 requesters and `MAX_LEN` 8. -/
def tight : Params := { Params.recommended with maxLen := some 8, nReq := 2 }

/-- The state after reset of a block with the parameters `P`, with the request `q` taken. -/
def taking (P : Params) (q : Request) : State := { State.resetOf P with req := q }

/-- The state after reset with a request on two scalar operands taken. -/
def onBytes (a b : Byte) : State := taking Params.recommended { Request.zero with a := a, b := b }

/-- The state after reset with a request on a buffer taken. -/
def onBuf (B : List Byte) : State := taking Params.recommended { Request.zero with buf := B }

/-- The state after reset with a request on a packet and a scalar operand taken. -/
def onPkt (p : Packet) (a : Byte) : State := taking Params.recommended { Request.zero with pkt := p, a := a }

/-- The response delivered, if the outcome is a next state. -/
def rspOf : Host.Outcome State Fault Refusal → Option Response
  | .next t => t.rsp
  | .fault _ => none
  | .refused _ => none

/-- `SEQ_CTR` after, if the outcome is a next state. -/
def seqOf : Host.Outcome State Fault Refusal → Option Byte
  | .next t => some t.seqCtr
  | .fault _ => none
  | .refused _ => none

/-! ## Each check refuses an ill-formed term -/

theorem test_recommended_wellFormed : Params.recommended.wellFormed = true := by decide
theorem test_equal_markers_refused :
    { Params.recommended with endMarker := 0x8D }.markersDistinct = false := by decide
theorem test_equal_codes_refused :
    { Params.recommended with escCodeEnd := 0x05 }.codesDistinct = false := by decide
theorem test_code_equal_to_marker_refused :
    { Params.recommended with escCodeEsc := 0xD8 }.codesUnreserved = false := by decide
theorem test_maxLen_6_refused : { Params.recommended with maxLen := some 6 }.maxLenLegal = false := by decide
theorem test_maxLen_7_accepted : { Params.recommended with maxLen := some 7 }.wellFormed = true := by decide
theorem test_no_requester_refused : { Params.recommended with nReq := 0 }.nReqLegal = false := by decide
theorem test_wellFormed_refuses :
    { Params.recommended with nReq := 0 }.wellFormed = false ∧
    { Params.recommended with escMarker := 0x8D }.wellFormed = false := by decide
theorem test_long_payload_refused :
    { Packet.zero with payload := List.replicate 9 0x00 }.wellFormed tight = false := by decide
theorem test_unknown_requester_refused : { Request.zero with id := 2 }.wellFormed tight = false := by decide
theorem test_long_buffer_refused :
    { Request.zero with buf := List.replicate 9 0x00 }.wellFormed tight = false := by decide
theorem test_longest_request_accepted :
    { Request.zero with id := 1, buf := List.replicate 8 0x00 }.wellFormed tight = true := by decide

/-! ## Command words, bit by bit: RSV, IMM, OP (spec/30_encoding.md R71, R72) -/

theorem test_decode_flagsUnion : decode 0b00000001 = .ok .flagsUnion := by decide
theorem test_decode_flagsTest_0 : decode 0b00000010 = .ok (.flagsTest 0) := by decide
theorem test_decode_flagsTest_1 : decode 0b00010010 = .ok (.flagsTest 1) := by decide
theorem test_decode_flagsTest_6 : decode 0b01100010 = .ok (.flagsTest 6) := by decide
theorem test_decode_flagsTest_7 : decode 0b01110010 = .ok (.flagsTest 7) := by decide
theorem test_decode_flagsFromByte : decode 0b00000011 = .ok .flagsFromByte := by decide
theorem test_decode_flagsToByte : decode 0b00000100 = .ok .flagsToByte := by decide
theorem test_decode_nodePack : decode 0b00000101 = .ok .nodePack := by decide
theorem test_decode_nodeUnpack : decode 0b00000110 = .ok .nodeUnpack := by decide
theorem test_decode_seqNext : decode 0b00000111 = .ok .seqNext := by decide
theorem test_decode_pktNew : decode 0b00001000 = .ok .pktNew := by decide
theorem test_decode_pktWithSource : decode 0b00001001 = .ok .pktWithSource := by decide
theorem test_decode_pktWithTarget : decode 0b00001010 = .ok .pktWithTarget := by decide
theorem test_decode_escape : decode 0b00001011 = .ok .escape := by decide
theorem test_decode_unescape : decode 0b00001100 = .ok .unescape := by decide
theorem test_decode_checksum : decode 0b00001101 = .ok .checksum := by decide
theorem test_decode_encode : decode 0b00001110 = .ok .encode := by decide
theorem test_decode_decode : decode 0b00001111 = .ok .decode := by decide
theorem test_decode_refuses_op_0 : decode 0b00000000 = .error .reservedOp := by decide
theorem test_decode_refuses_0x17 : decode 0b00010111 = .error .immediateNotZero := by decide
theorem test_decode_refuses_0x82 : decode 0b10000010 = .error .reservedBit := by decide
theorem test_decode_refuses_0xFF : decode 0b11111111 = .error .reservedBit := by decide
theorem test_encode_flagsTest_4 : encode (.flagsTest 4) = 0b01000010 := by decide
theorem test_decodeTableWord :
    decodeTableWord 8 0x72 = some (.flagsTest 7) ∧ decodeTableWord 8 0x0F = some .decode ∧
    decodeTableWord 8 0x00 = none ∧ decodeTableWord 8 0x101 = none ∧ decodeTableWord 16 0x01 = none := by decide

/-! ## Operations, on the vectors of spec/95_test_vectors.md -/

theorem test_flagsUnion_reserved_bits :
    rspOf (exec .flagsUnion (onBytes 0xC0 0x3F)) = some { status := .ok, r0 := some 0xFF } := by decide
theorem test_flagsTest_unused :
    rspOf (exec (.flagsTest 6) (onBytes 0x40 0x00)) = some { status := .ok, r0 := some 0x01 } := by decide
theorem test_flagsTest_clear :
    rspOf (exec (.flagsTest 7) (onBytes 0x7F 0xFF)) = some { status := .ok, r0 := some 0x00 } := by decide
theorem test_flagsFromByte :
    rspOf (exec .flagsFromByte (onBytes 0xC0 0x01)) = some { status := .ok, r0 := some 0xC0 } := by decide
theorem test_flagsToByte :
    rspOf (exec .flagsToByte (onBytes 0x0A 0x01)) = some { status := .ok, r0 := some 0x0A } := by decide
theorem test_nodePack_high_nibbles :
    rspOf (exec .nodePack (onBytes 0xF3 0x24)) = some { status := .ok, r0 := some 0x34 } := by decide
theorem test_nodeUnpack :
    rspOf (exec .nodeUnpack (onBytes 0x8D 0x00)) = some { status := .ok, r0 := some 0x08, r1 := some 0x0D } := by decide
theorem test_seqNext_wraps :
    rspOf (exec .seqNext ((onBytes 0 0).withSeq 0xFF)) = some { status := .ok, r0 := some 0x00 } ∧
    seqOf (exec .seqNext ((onBytes 0 0).withSeq 0xFF)) = some 0x00 := by decide
theorem test_pktNew_after_reset :
    rspOf (exec .pktNew (taking Params.recommended { Request.zero with a := 0x13, b := 0x0D, buf := [1, 2, 3] })) =
      some { status := .ok, pkt := some ⟨0x0A, 0x00, 0x00, 0x13, 0x0D, 0x01, 0x00, [1, 2, 3]⟩ } := by decide
theorem test_pktWithSource_keeps_the_rest :
    rspOf (exec .pktWithSource (onPkt ⟨0x1A, 0x12, 0x55, 0x13, 0x0D, 0x06, 0x44, [0x8D]⟩ 0x34)) =
      some { status := .ok, pkt := some ⟨0x3A, 0x12, 0x34, 0x13, 0x0D, 0x06, 0x44, [0x8D]⟩ } := by decide
theorem test_pktWithTarget_replaces :
    rspOf (exec .pktWithTarget (onPkt ⟨0x1A, 0x12, 0x55, 0x13, 0x0D, 0x06, 0x44, []⟩ 0x77)) =
      some { status := .ok, pkt := some ⟨0x1A, 0x77, 0x55, 0x13, 0x0D, 0x06, 0x44, []⟩ } := by decide
theorem test_escape :
    rspOf (exec .escape (onBuf [0x05, 0x8D, 0x50, 0xD8, 0x23, 0xAB])) =
      some { status := .ok, buf := some [0x05, 0xAB, 0x05, 0x50, 0xAB, 0x50, 0x23, 0xAB, 0x23] } := by decide
theorem test_unescape :
    rspOf (exec .unescape (onBuf [0x01, 0xAB, 0x23, 0x02])) =
      some { status := .ok, buf := some [0x01, 0xAB, 0x02] } := by decide
theorem test_unescape_lowest_index :
    rspOf (exec .unescape (onBuf [0x00, 0xD8, 0xAB])) =
      some { status := .malformedEscape, err := some ⟨2, some 1, none, some 0xD8, none⟩ } := by decide
theorem test_checksum :
    rspOf (exec .checksum (onBuf [0x0A, 0x01, 0x01, 0x01, 0x01, 0x02, 0x03])) =
      some { status := .ok, r0 := some 0xEC } := by decide
theorem test_checksum_wraps :
    rspOf (exec .checksum (onBuf [0xFF, 0xFF, 0xFF])) = some { status := .ok, r0 := some 0x02 } := by decide
theorem test_encode_target_before_source :
    rspOf (exec .encode (onPkt ⟨0x3A, 0x12, 0x34, 0x13, 0x0D, 0x06, 0x00, [0x8D, 0xD8, 0xAB]⟩ 0)) =
      some { status := .ok, buf := some [0x8D, 0x3A, 0x12, 0x34, 0x13, 0x0D, 0x06, 0xAB, 0x05, 0xAB, 0x50, 0xAB, 0x23,
        0xE0, 0xD8] } := by decide
theorem test_encode_header_not_escaped :
    rspOf (exec .encode (onPkt ⟨0xFF, 0x8D, 0xD8, 0xAB, 0x8D, 0xD8, 0xAB, [0xAB]⟩ 0)) =
      some { status := .ok, buf := some [0x8D, 0xFF, 0x8D, 0xD8, 0xAB, 0x8D, 0xD8, 0xAB, 0xAB, 0x23, 0x12, 0xD8] } := by
  decide

theorem test_decode_all_optional_fields :
    rspOf (exec .decode (onBuf [0x8D, 0x39, 0x12, 0x34, 0x13, 0x0D, 0x42, 0x07, 0xAB, 0x23, 0x00, 0x49, 0xD8])) =
      some { status := .ok, pkt := some ⟨0x39, 0x12, 0x34, 0x13, 0x0D, 0x42, 0x07, [0xAB, 0x00]⟩ } := by decide +kernel

theorem test_decode_trailing_byte_is_a_mismatch :
    rspOf (exec .decode (onBuf [0x8D, 0x0A, 0x01, 0x01, 0x01, 0x01, 0x02, 0x03, 0xEC, 0xD8, 0x00])) =
      some { status := .checksumMismatch, err := some ⟨0, some 9, some 0x00, some 0xD8, none⟩ } := by decide +kernel

/-! ## The step -/

/-- An illegal command word as the first request after reset: answered, and `SEQ_CTR` unchanged. -/
theorem test_step_illegal :
    rspOf (step (State.reset.withFetchWord 8 0x17)) =
      some { status := .illegalOp, err := some ⟨0, none, none, some 0x17, none⟩ } ∧
    seqOf (step (State.reset.withFetchWord 8 0x17)) = some 0x00 := by decide
theorem test_step_seqNext_after_reset :
    rspOf (step (State.reset.withFetchWord 8 0x07)) = some { status := .ok, r0 := some 0x01 } ∧
    seqOf (step (State.reset.withFetchWord 8 0x07)) = some 0x01 := by decide
theorem test_step_flagsTest_after_reset :
    rspOf (step (State.reset.withFetchWord 8 0x72)) = some { status := .ok, r0 := some 0x00 } := by decide

set_option maxRecDepth 4000 in
theorem test_step_decode_after_reset :
    rspOf (step (State.reset.withFetchWord 8 0x0F)) =
      some { status := .truncatedFrame, err := some ⟨0, some 0, none, none, some 0x0⟩ } := by decide
theorem test_step_waits_after_reset : step State.reset = .next State.reset := rfl

/-! ## Witnesses: for each statement with hypotheses, operands that meet them, at the ends of their ranges -/

/-- A request whose buffer and payload both have exactly `MAX_LEN` bytes. -/
def longest : State :=
  taking tight { Request.zero with buf := List.replicate 8 0x01, pkt := { Packet.zero with payload := List.replicate 8 0x01 } }

theorem longest_within : OperandsWithin longest := by
  constructor <;> (intro m h; cases h; decide)

/-- With `MAX_LEN` unbounded every request is within it. -/
theorem unbounded_within {P : Params} (h : P.maxLen = none) (q : Request) : OperandsWithin (taking P q) := by
  constructor <;> (intro m hm; rw [show (taking P q).params = P from rfl, h] at hm; cases hm)

theorem witness_IllegalCommandWordsAreAnswered :
    legalCommand 0x00 = false ∧ legalCommand 0x70 = false ∧ legalCommand 0x11 = false ∧ legalCommand 0x7F = false ∧
    legalCommand 0x82 = false ∧ legalCommand 0xFF = false := by decide

theorem witness_FlagsUnionAnswersTheUnion : OperandsWithin longest ∧ ∃ t, exec .flagsUnion longest = .next t :=
  ⟨longest_within, _, rfl⟩
theorem witness_FlagsTestAnswersTheBit :
    OperandsWithin longest ∧ (∃ t, exec (.flagsTest 0) longest = .next t) ∧ ∃ t, exec (.flagsTest 7) longest = .next t :=
  ⟨longest_within, ⟨_, rfl⟩, _, rfl⟩
theorem witness_FlagByteConversionsAreTheIdentity :
    OperandsWithin longest ∧ (∃ t, exec .flagsFromByte longest = .next t) ∧ ∃ t, exec .flagsToByte longest = .next t :=
  ⟨longest_within, ⟨_, rfl⟩, _, rfl⟩
theorem witness_NodePackJoinsTheNibbles : OperandsWithin longest ∧ ∃ t, exec .nodePack longest = .next t :=
  ⟨longest_within, _, rfl⟩
theorem witness_NodeUnpackSplitsTheByte : OperandsWithin longest ∧ ∃ t, exec .nodeUnpack longest = .next t :=
  ⟨longest_within, _, rfl⟩
theorem witness_SeqNextIncrementsAndAnswers :
    OperandsWithin (longest.withSeq 0xFF) ∧ ∃ t, exec .seqNext (longest.withSeq 0xFF) = .next t :=
  ⟨longest_within, _, rfl⟩
theorem witness_PktNewBuildsAPacket :
    OperandsWithin (longest.withSeq 0xFF) ∧ ∃ t, exec .pktNew (longest.withSeq 0xFF) = .next t :=
  ⟨longest_within, _, rfl⟩
theorem witness_PktWithSourceAttaches : OperandsWithin longest ∧ ∃ t, exec .pktWithSource longest = .next t :=
  ⟨longest_within, _, rfl⟩
theorem witness_PktWithTargetAttaches : OperandsWithin longest ∧ ∃ t, exec .pktWithTarget longest = .next t :=
  ⟨longest_within, _, rfl⟩
theorem witness_ChecksumAnswersTheComplementedSum : OperandsWithin longest ∧ ∃ t, exec .checksum longest = .next t :=
  ⟨longest_within, _, rfl⟩

/-- Four reserved bytes: the output has exactly `MAX_LEN` bytes; with one byte more it has 9 and is refused. -/
theorem witness_EscapeAnswersTheEscapedBytes :
    (∃ s : State, OperandsWithin s ∧ WithinMaxLen s.params (escaped s.params s.req.buf).length ∧
      (escaped s.params s.req.buf).length = 8 ∧ ∃ t, exec .escape s = .next t) ∧
    ∃ s : State, OperandsWithin s ∧ ¬WithinMaxLen s.params (escaped s.params s.req.buf).length := by
  refine ⟨⟨taking tight { Request.zero with buf := [0x8D, 0xD8, 0xAB, 0x8D] }, ⟨?_, ?_⟩, ?_, by decide, _, rfl⟩,
    taking tight { Request.zero with buf := [0x8D, 0xD8, 0xAB, 0x8D, 0x00] }, ⟨?_, ?_⟩, fun h => ?_⟩
  on_goal 6 => exact absurd (h 8 rfl) (by decide)
  all_goals (intro m h; cases h; decide)

/-- The two shapes of an `UNESCAPE` operand, the empty one and each illegal pattern at the first and a later index. -/
theorem witness_UnescapeRestoresOrReportsTheFirstIllegalPattern :
    Params.recommended.wellFormed = true ∧
    (∃ B, (onBuf []).req.buf = escaped (onBuf []).params B) ∧
    (∃ B, (onBuf [0xAB, 0x23]).req.buf = escaped (onBuf [0xAB, 0x23]).params B) ∧
    illegalPattern Params.recommended [0xAB] = some (1, none) ∧
    illegalPattern Params.recommended [0xAB, 0xD8] = some (0, some 0xD8) ∧
    illegalPattern Params.recommended [0xD8, 0x00] = some (2, some 0xD8) ∧
    (onBuf [0x00, 0xAB, 0x05, 0xAB]).req.buf = escaped Params.recommended [0x00, 0x8D] ++ [0xAB] := by
  exact ⟨by decide, ⟨[], by decide⟩, ⟨[0xAB], by decide⟩, by decide, by decide, by decide, by decide⟩

/-- The shortest frame, with `MAX_LEN` 7, and one byte of payload more, which is refused. -/
theorem witness_EncodeAnswersTheFrame :
    (∃ s : State, OperandsWithin s ∧ WithinMaxLen s.params (frameOf s.params s.req.pkt).length ∧
      (frameOf s.params s.req.pkt).length = 7 ∧ ∃ t, exec .encode s = .next t) ∧
    ∃ s : State, OperandsWithin s ∧ ¬WithinMaxLen s.params (frameOf s.params s.req.pkt).length := by
  refine ⟨⟨taking { tight with maxLen := some 7 } Request.zero, ⟨?_, ?_⟩, ?_, by decide, _, rfl⟩,
    taking { tight with maxLen := some 7 } { Request.zero with pkt := { Packet.zero with payload := [0x01] } },
    ⟨?_, ?_⟩, fun h => ?_⟩
  on_goal 6 => exact absurd (h 7 rfl) (by decide)
  all_goals (intro m h; cases h; decide)

/-- A packet with every optional field and reserved bytes everywhere, and the smallest packet. -/
theorem witness_DecodeOfAFrameAnswersThePacket :
    Params.recommended.wellFormed = true ∧ OperandsWithin (onBuf (frameOf Params.recommended Packet.zero)) ∧
    (onBuf [0x8D, 0xFF, 0x8D, 0xD8, 0xAB, 0x8D, 0xD8, 0xAB, 0xAB, 0x23, 0x12, 0xD8]).req.buf =
      frameOf Params.recommended ⟨0xFF, 0x8D, 0xD8, 0xAB, 0x8D, 0xD8, 0xAB, [0xAB]⟩ :=
  ⟨by decide, unbounded_within rfl _, by decide⟩

theorem witness_DecodeReportsTheMissingStart :
    OperandsWithin (onBuf [0xD8]) ∧ (onBuf [0xD8]).req.buf = 0xD8 :: [] ∧ (0xD8 : Byte) ≠ (onBuf [0xD8]).params.startMarker :=
  ⟨unbounded_within rfl _, rfl, by decide⟩

/-- Every state that can run out of input, on the vectors of spec/95_test_vectors.md and between them. -/
theorem witness_DecodeReportsTruncation :
    OperandsWithin (onBuf []) ∧
    truncatedAt Params.recommended [] = some 0x0 ∧
    truncatedAt Params.recommended [0x8D] = some 0x1 ∧
    truncatedAt Params.recommended [0x8D, 0x31] = some 0x2 ∧
    truncatedAt Params.recommended [0x8D, 0x31, 0x00] = some 0x3 ∧
    truncatedAt Params.recommended [0x8D, 0x0A] = some 0x4 ∧
    truncatedAt Params.recommended [0x8D, 0x0A, 0x01] = some 0x5 ∧
    truncatedAt Params.recommended [0x8D, 0x0A, 0x01, 0x01] = some 0x6 ∧
    truncatedAt Params.recommended [0x8D, 0x01, 0x01, 0x01, 0x01] = some 0x7 ∧
    truncatedAt Params.recommended [0x8D, 0x0A, 0x01, 0x01, 0x01] = some 0x8 ∧
    truncatedAt Params.recommended [0x8D, 0x3B, 0x01, 0x02, 0x03, 0x04, 0x05, 0x06] = some 0x8 ∧
    truncatedAt Params.recommended [0x8D, 0x1A, 0x00, 0x00, 0x00, 0xF5, 0xD8] = some 0x8 :=
  ⟨unbounded_within rfl _, by decide⟩

/-- An escape marker just before the checksum byte, a raw marker as the first byte of the region, and an escape marker before
a byte that is no code. -/
theorem witness_DecodeReportsTheMalformedEscape :
    Parts Params.recommended [0x8D, 0x0A, 0x01, 0x01, 0x01, 0x05, 0xAB, 0x42, 0xD8] 0x0A
      (escaped Params.recommended [0x05] ++ [0xAB]) 0x42 0xD8 ∧
    illegalPattern Params.recommended [0xAB] = some (1, none) ∧
    Parts Params.recommended [0x8D, 0x0A, 0x01, 0x01, 0x01, 0xD8, 0x19, 0xD8] 0x0A
      (escaped Params.recommended [] ++ [0xD8]) 0x19 0xD8 ∧
    illegalPattern Params.recommended [0xD8] = some (2, some 0xD8) ∧
    Parts Params.recommended [0x8D, 0x0A, 0x01, 0x01, 0x01, 0xAB, 0x99, 0xAE, 0xD8] 0x0A
      (escaped Params.recommended [] ++ [0xAB, 0x99]) 0xAE 0xD8 ∧
    illegalPattern Params.recommended [0xAB, 0x99] = some (0, some 0x99) :=
  ⟨⟨[1, 1, 1], by decide⟩, by decide, ⟨[1, 1, 1], by decide⟩, by decide, ⟨[1, 1, 1], by decide⟩, by decide⟩

/-- The frame of V-S1 with a wrong checksum byte, and with a wrong last byte. -/
theorem witness_DecodeReportsTheSuffix :
    (Parts Params.recommended [0x8D, 0x0A, 1, 1, 1, 1, 2, 3, 0xED, 0x00] 0x0A (escaped Params.recommended [1, 2, 3]) 0xED
        0x00 ∧
      (0xED : Byte) ≠ complementOfSum [0x0A, 1, 1, 1, 1, 2, 3]) ∧
    Parts Params.recommended [0x8D, 0x0A, 1, 1, 1, 1, 2, 3, 0xEC, 0x00] 0x0A (escaped Params.recommended [1, 2, 3]) 0xEC
        0x00 ∧
      (0xEC : Byte) = complementOfSum [0x0A, 1, 1, 1, 1, 2, 3] ∧ (0x00 : Byte) ≠ Params.recommended.endMarker :=
  ⟨⟨⟨[1, 1, 1], by decide⟩, by decide⟩, ⟨[1, 1, 1], by decide⟩, by decide, by decide⟩

/-- A `FRAMING_ERROR` and a `MALFORMED_ESCAPE` response exist. -/
theorem witness_TrailingBytesIsNeverDelivered :
    (∃ t r e, exec .decode (onBuf [0x00]) = .next t ∧ t.rsp = some r ∧ r.err = some e ∧ r.status = .framingError) ∧
    (∃ t r e, exec .unescape (onBuf [0xD8]) = .next t ∧ t.rsp = some r ∧ r.err = some e ∧
      r.status = .malformedEscape ∧ e.sub = 2) ∧
    ∃ t r e, exec .decode (onBuf []) = .next t ∧ t.rsp = some r ∧ r.err = some e ∧ r.status = .truncatedFrame :=
  ⟨⟨_, _, _, rfl, rfl, rfl, rfl⟩, ⟨_, _, _, rfl, rfl, rfl, rfl, rfl⟩, _, _, _, rfl, rfl, rfl, rfl⟩

/-- The decoder's registers as they stand before `state`, at index `pos` of a buffer of `len` bytes with flags `f`. -/
def regsAt (state : DecState) (pos len : Nat) (f : Byte) : DecRegs := { DecRegs.reset with state, pos, len, f }

/-- The frame of a packet with every optional field and no payload. -/
def fullFrame : List Byte := frameOf Params.recommended ⟨0x31, 1, 2, 3, 4, 5, 6, []⟩

/-- Every state with a transition makes it on one frame. -/
theorem witness_DecoderTransitionsFollowTheTable :
    (∃ r', decStep Params.recommended fullFrame (regsAt .start 0 10 0x31) = .ok r') ∧
    (∃ r', decStep Params.recommended fullFrame (regsAt .flags 1 10 0x31) = .ok r') ∧
    (∃ r', decStep Params.recommended fullFrame (regsAt .target 2 10 0x31) = .ok r') ∧
    (∃ r', decStep Params.recommended fullFrame (regsAt .source 3 10 0x31) = .ok r') ∧
    (∃ r', decStep Params.recommended fullFrame (regsAt .device 4 10 0x31) = .ok r') ∧
    (∃ r', decStep Params.recommended fullFrame (regsAt .command 5 10 0x31) = .ok r') ∧
    (∃ r', decStep Params.recommended fullFrame (regsAt .seqNo 6 10 0x31) = .ok r') ∧
    (∃ r', decStep Params.recommended fullFrame (regsAt .err 7 10 0x31) = .ok r') ∧
    (∃ r', decStep Params.recommended fullFrame (regsAt .data 8 10 0x31) = .ok r') ∧
    (∃ r', decStep Params.recommended fullFrame { regsAt .checksum 8 10 0x31 with dend := 8 } = .ok r') ∧
    ∃ r', decStep Params.recommended fullFrame (regsAt .endState 9 10 0x31) = .ok r' :=
  ⟨⟨_, rfl⟩, ⟨_, rfl⟩, ⟨_, rfl⟩, ⟨_, rfl⟩, ⟨_, rfl⟩, ⟨_, rfl⟩, ⟨_, rfl⟩, ⟨_, rfl⟩, ⟨_, rfl⟩, ⟨_, rfl⟩, _, rfl⟩

theorem witness_CommandWordsRoundTrip : decode 0x72 = .ok (.flagsTest 7) ∧ decode 0x0F = .ok .decode := by decide

/-- A packet with all three optional fields, and one with none. -/
theorem witness_FrameFieldsStandAtTheirOffsets :
    ((0x31 : Byte).getLsbD 4 = true ∧ (0x31 : Byte).getLsbD 5 = true ∧ (0x31 : Byte).getLsbD 0 = true) ∧
    encodeFrame Params.recommended ⟨0x31, 1, 2, 3, 4, 5, 6, []⟩ = fullFrame ∧ fullFrame.length = 10 := by decide

/-- The first and the last position a state can read at, the data state with an empty region, header states at the end of the
buffer, and the data state there and one byte before it. -/
theorem witness_DecoderPositionNeverGoesBack :
    fullFrame.length = 10 ∧
    (∃ r', decStep Params.recommended fullFrame (regsAt .start 0 10 0x31) = .ok r') ∧
    (∃ r', decStep Params.recommended fullFrame (regsAt .data 8 10 0x31) = .ok r') ∧
    (∃ r', decStep Params.recommended fullFrame (regsAt .endState 9 10 0x31) = .ok r') ∧
    (decStateCode (regsAt .start 0 0 0).state).toNat ≤ 7 ∧ (regsAt .start 0 0 0).len ≤ (regsAt .start 0 0 0).pos ∧
    (decStateCode (regsAt .err 7 7 0x31).state).toNat ≤ 7 ∧ (fullFrame.take 7).length = (regsAt .err 7 7 0x31).len ∧
    (regsAt .data 8 8 0x31).len < (regsAt .data 8 8 0x31).pos + 2 ∧ (fullFrame.take 8).length = 8 ∧
    (regsAt .data 8 9 0x31).len < (regsAt .data 8 9 0x31).pos + 2 ∧ (fullFrame.take 9).length = 9 :=
  ⟨by decide, ⟨_, rfl⟩, ⟨_, rfl⟩, ⟨_, rfl⟩, by decide, by decide, by decide, by decide, by decide, by decide, by decide,
    by decide⟩

theorem witness_FlagSetLaws :
    (∃ t r, exec .flagsFromByte longest = .next t ∧ t.rsp = some r) ∧
    ∃ t r, exec .flagsToByte longest = .next t ∧ t.rsp = some r :=
  ⟨⟨_, _, rfl, rfl⟩, _, _, rfl, rfl⟩
theorem witness_EscapeOutputHasNoIllegalPattern :
    Params.recommended.wellFormed = true ∧ (0x05 : Byte) ∈ escapeBytes Params.recommended [0x8D] ∧
    (escapeBytes Params.recommended [0x8D])[0]? = some Params.recommended.escMarker := by decide
theorem witness_EscapeAndUnescapeAreInverse :
    Params.recommended.wellFormed = true ∧
    (unescapeBytes Params.recommended [0xAB, 0x05] 3).toOption = some [0x8D] := by decide
theorem witness_EscapeLengths :
    Params.recommended.wellFormed = true ∧
    (unescapeBytes Params.recommended [0xAB, 0x05, 0xAB, 0x50] 0).toOption = some [0x8D, 0xD8] := by decide
theorem witness_ChecksumArithmetic : [0x0A, 0x01, 0x02].Perm [(0x02 : Byte), 0x0A, 0x01] := by decide
theorem witness_ChecksumDetectsASingleBit :
    flipBit [0x01, 0x02] 0 0 = [0x00, 0x02] ∧ flipBit [0x01, 0x02] 1 7 = [0x01, 0x82] := by decide
theorem witness_OtherFlagBitsAreOnlyCarried :
    (0xCE : Byte) &&& 0x31 = 0x00 &&& 0x31 ∧ (0xFF : Byte) &&& 0x31 = 0x31 &&& 0x31 := by decide
theorem witness_AbsentFieldsAreIgnored :
    canonical ⟨0x0A, 0x77, 0x66, 1, 1, 1, 0x55, []⟩ = canonical ⟨0x0A, 0, 0, 1, 1, 1, 0, []⟩ := by decide

set_option maxRecDepth 4000 in
theorem witness_DecodeAcceptsExactlyTheFrames :
    Params.recommended.wellFormed = true ∧ OperandsWithin (onBuf fullFrame) ∧
    ∃ t r, exec .decode (onBuf fullFrame) = .next t ∧ t.rsp = some r ∧ r.status = .ok :=
  ⟨by decide, unbounded_within rfl _, _, _, rfl, rfl, by decide⟩

/-- Flag bit 4 of the shortest frame, a payload byte made a marker, and the checksum byte's two end bits. -/
theorem witness_SingleBitFlipsAreRejected :
    flipBit [0x8D, 0x0A, 0, 0, 0, 0xF5, 0xD8] 1 4 = [0x8D, 0x1A, 0, 0, 0, 0xF5, 0xD8] ∧
    frameOf Params.recommended ⟨0x0A, 0, 0, 0, 0, 0, 0, []⟩ = [0x8D, 0x0A, 0, 0, 0, 0xF5, 0xD8] ∧
    frameOf Params.recommended ⟨0x0A, 0, 0, 1, 1, 1, 0, [0xD9]⟩ = [0x8D, 0x0A, 1, 1, 1, 0xD9, 0x19, 0xD8] ∧
    flipBit [0x8D, 0x0A, 1, 1, 1, 0xD9, 0x19, 0xD8] 5 0 = [0x8D, 0x0A, 1, 1, 1, 0xD8, 0x19, 0xD8] ∧
    flipBit [0x8D, 0x0A, 1, 1, 1, 0xD9, 0x19, 0xD8] 6 7 = [0x8D, 0x0A, 1, 1, 1, 0xD9, 0x99, 0xD8] ∧
    flipBit [0x8D, 0x0A, 1, 1, 1, 0xD9, 0x19, 0xD8] 6 0 = [0x8D, 0x0A, 1, 1, 1, 0xD9, 0x18, 0xD8] := by decide

/-- A `SEQ_NEXT`, a `FLAGS_UNION`, an illegal word and a `PKT_NEW` from 0xFE: two numbers, across the wrap. -/
theorem witness_SequenceNumbersAreConsecutive :
    ∃ t, performAll
      [{ Request.zero with cmd := 0x07 }, { Request.zero with cmd := 0x01 }, { Request.zero with cmd := 0x17 },
        { Request.zero with cmd := 0x08 }] ((onBytes 0 0).withSeq 0xFE) = some (t, [0xFF, 0x00]) :=
  ⟨_, rfl⟩

/-- Operations of each kind answer a next state: one that writes the counter, one that writes `ENC_OUT`, one that fails. -/
theorem witness_OperationsLeaveTheRestUnchanged :
    (∃ t, exec .seqNext (onBuf []) = .next t) ∧ (∃ t, exec .encode (onBuf []) = .next t) ∧
    (∃ t, exec .decode (onBuf []) = .next t) ∧ (onBuf []).req.id < (onBuf []).inbox.length :=
  ⟨⟨_, rfl⟩, ⟨_, rfl⟩, ⟨_, rfl⟩, by decide⟩

/-- Two states with the same request and different counters; an operation that answers and one that is refused. -/
theorem witness_OperationsDependOnTheirRequestAlone :
    ((onBuf []).withSeq 0x55).params = (onBuf []).params ∧ ((onBuf []).withSeq 0x55).req = (onBuf []).req ∧
    (∃ t, exec .decode (onBuf []) = .next t) ∧
    ∃ x, exec .escape (taking tight { Request.zero with buf := List.replicate 9 0 }) = .refused x :=
  ⟨rfl, rfl, ⟨_, rfl⟩, _, rfl⟩

theorem witness_ErrorsAreAnsweredAndLeaveNoTrace :
    ∃ t r, exec .unescape (onBuf [0xAB]) = .next t ∧ t.rsp = some r ∧ r.status ≠ .ok :=
  ⟨_, _, rfl, rfl, by decide⟩
theorem witness_OnlyUnescapeAndDecodeRaise : ∃ t, exec .encode (onBuf []) = .next t := ⟨_, rfl⟩

/-- Each way to be refused, one byte above `MAX_LEN`, and one that the engine takes. -/
theorem witness_RefusalIsForLengthAlone :
    (decode 0x07 = .ok .seqNext ∧
      exec .seqNext (taken (State.resetOf tight) 0 { Request.zero with cmd := 0x07, buf := List.replicate 9 0 }) =
        .refused .lengthExceeded) ∧
    exec .seqNext (taking tight { Request.zero with buf := List.replicate 9 0 }) = .refused .lengthExceeded ∧
    exec .escape (taking tight { Request.zero with buf := [0xAB, 0xAB, 0xAB, 0xAB, 0x00] }) = .refused .lengthExceeded ∧
    exec .encode (taking tight { Request.zero with pkt := { Packet.zero with payload := [1, 2] } }) =
      .refused .lengthExceeded :=
  ⟨⟨by decide, rfl⟩, rfl, rfl, rfl⟩

/-- An operation that delivers a buffer at the bound, and one that delivers a payload at the bound. -/
theorem witness_OutputLengthBounds :
    (∃ t r B, exec .escape (onBuf [0xAB]) = .next t ∧ t.rsp = some r ∧ r.buf = some B ∧ B.length = 2) ∧
    ∃ t r p, exec .decode (onBuf [0x8D, 0x0A, 0, 0, 0, 0xF5, 0xD8]) = .next t ∧ t.rsp = some r ∧ r.pkt = some p ∧
      p.payload.length = 0 :=
  ⟨⟨_, _, _, rfl, rfl, rfl, rfl⟩, _, _, _, rfl, rfl, rfl, rfl⟩

/-- A response with `OK`, one with the error of an operation, one to an illegal command word, and a union's. -/
theorem witness_AbsentFieldsFault :
    (∃ t r, performRequest State.reset 0 { Request.zero with cmd := 0x06 } = .next t ∧ t.rsp = some r ∧ r.status = .ok) ∧
    (∃ t r, performRequest State.reset 0 { Request.zero with cmd := 0x0C, buf := [0xAB] } = .next t ∧ t.rsp = some r ∧
      r.status = .malformedEscape) ∧
    (∃ t r, performRequest State.reset 0 { Request.zero with cmd := 0x80 } = .next t ∧ t.rsp = some r ∧
      r.status = .illegalOp) ∧
    ∃ t r, exec .flagsUnion (onBytes 1 2) = .next t ∧ t.rsp = some r :=
  ⟨⟨_, _, rfl, rfl, rfl⟩, ⟨_, _, rfl, rfl, rfl⟩, ⟨_, _, rfl, rfl, rfl⟩, _, _, rfl, rfl⟩

/-! ### The engine -/

/-- Two requesters, `SEQ_CTR` 0x10, each with a `PKT_NEW` pending (spec/95_test_vectors.md, Program 6). -/
def twoProducers : State :=
  { State.resetOf { Params.recommended with nReq := 2 } with
    seqCtr := 0x10
    pending := [some { Request.zero with cmd := 0x08 }, some { Request.zero with cmd := 0x08, id := 1 }] }

theorem twoProducers_inv : twoProducers.Inv where
  params_wellFormed := by decide
  pending_length := rfl
  inbox_length := rfl
  toIssue_length := rfl
  pending_id := by
    intro id r h
    match id with
    | 0 => cases h; rfl
    | 1 => cases h; rfl
    | _ + 2 => cases h
  req_id := by decide
  dec_idle := rfl
  dec_pos := rfl
  dec_len := rfl
  dec_payload := rfl
  encOut_length := rfl
  rsp_legal := by intro r h; cases h
  inbox_legal := by intro r h; simp [twoProducers, State.resetOf] at h

theorem witness_TwoProducersGetDistinctNumbers :
    twoProducers.Inv ∧ twoProducers.events = [] ∧
    Pending twoProducers 0 { Request.zero with cmd := 0x08 } ∧
    Pending twoProducers 1 { Request.zero with cmd := 0x08, id := 1 } ∧
    (∀ k x, Pending twoProducers k x → k = 0 ∨ k = 1) ∧
    { Request.zero with cmd := 0x08 }.wellFormed twoProducers.params = true ∧
    { Request.zero with cmd := 0x08, id := 1 }.wellFormed twoProducers.params = true := by
  refine ⟨twoProducers_inv, rfl, rfl, rfl, ?_, by decide, by decide⟩
  intro k x h
  match k with
  | 0 => exact .inl rfl
  | 1 => exact .inr rfl
  | _ + 2 => cases h

theorem witness_EnginePerformsOneOfThePending :
    twoProducers.events = [] ∧ ∃ id r, Pending twoProducers id r ∧ hasStep twoProducers id r = true :=
  ⟨rfl, 1, _, rfl, by decide⟩

/-- The two ways the statement's hypothesis is met, and its second clause: a request one byte above `MAX_LEN`. -/
theorem witness_StepRunsTheDecodedOperation :
    ((State.reset.withFetchWord 8 0x07).events = [] ∧
      ∀ k q, Pending (State.reset.withFetchWord 8 0x07) k q → k = 0) ∧
    Pending (State.reset.withFetchWord 8 0x07) 0 { Request.zero with cmd := 0x07 } ∧
    decode 0x07 = .ok .seqNext ∧
    ({ twoProducers with events := [.perform 1] }.events = .perform 1 :: []) ∧
    Pending { twoProducers with events := [.perform 1] } 1 { Request.zero with cmd := 0x08, id := 1 } ∧
    exec .seqNext (taking tight { Request.zero with cmd := 0x07, buf := List.replicate 9 0 }) =
      .refused .lengthExceeded := by
  refine ⟨⟨rfl, ?_⟩, rfl, by decide, rfl, rfl, rfl⟩
  intro k q h
  match k with
  | 0 => rfl
  | _ + 1 => cases h

theorem witness_StepAnswersAnIllegalCommand :
    ∃ s : State, s.events = [.perform 0] ∧ Pending s 0 { Request.zero with cmd := 0x82 } ∧ legalCommand 0x82 = false :=
  ⟨{ State.reset.withFetchWord 8 0x82 with events := [.perform 0] }, rfl, rfl, by decide⟩

/-- A requester with an empty slot and a request to issue, and one with a request outstanding. -/
theorem witness_IssuingFillsTheEmptySlot :
    (∃ s : State, s.events = [.issue 0] ∧ s.pending[0]? = some none ∧ s.toIssue[0]? = some [Request.zero]) ∧
    ∃ s : State, s.events = [.issue 1] ∧ Pending s 1 { Request.zero with cmd := 0x08, id := 1 } :=
  ⟨⟨{ State.reset with events := [.issue 0], toIssue := [[Request.zero]] }, rfl, rfl, rfl⟩,
    { twoProducers with events := [.issue 1] }, rfl, rfl⟩
theorem witness_PendingRequestsArePerformed :
    twoProducers.events = [] ∧ twoProducers.Inv ∧ Pending twoProducers 1 { Request.zero with cmd := 0x08, id := 1 } ∧
    hasStep twoProducers 1 { Request.zero with cmd := 0x08, id := 1 } = true :=
  ⟨rfl, twoProducers_inv, rfl, by decide⟩
theorem witness_OnlyAllocationsAndResetWriteTheCounter :
    (∃ t, step { twoProducers with events := [.perform 1] } = .next t) ∧
    (∃ t, step { twoProducers with events := [.reset] } = .next t) ∧
    ∃ t, step { twoProducers with events := [.perform 2] } = .next t :=
  ⟨⟨_, rfl⟩, ⟨_, rfl⟩, _, rfl⟩
theorem witness_ResetDiscardsAndKeeps : { twoProducers with events := [.reset] }.events = .reset :: [] := rfl
theorem witness_ResetMeetsTheInvariant : tight.wellFormed = true := by decide
theorem witness_StepKeepsTheInvariant :
    State.Inv { twoProducers with events := [.perform 0] } ∧
    ∃ t, step { twoProducers with events := [.perform 0] } = .next t :=
  ⟨{ twoProducers_inv with }, _, rfl⟩

end Sys2Proof.Tests
end

section
/-! PROOFS. The registers: reset, and how the decoder's position moves (spec/10_state.md). -/

namespace Sys2Proof.Machine

/-! ## Reset -/

/-- After reset no slot of the pending set holds a request (spec/70_reset_and_hazards.md R291). -/
theorem not_pending_resetOf (P : Params) (id : Nat) (r : Request) : ¬Claims.Pending (State.resetOf P) id r := by
  simp [Claims.Pending, State.resetOf, List.getElem?_replicate]

/-- After reset no response has reached a requester. -/
theorem not_mem_inbox_resetOf (P : Params) (r : Response) : some r ∉ (State.resetOf P).inbox := by
  simp [State.resetOf, List.mem_replicate]

/-- Settles O56: the empty interfaces slot by slot, the rest by the definition of the reset state. -/
theorem resetValues : Obligations.ResetValues := fun P =>
  ⟨rfl, not_pending_resetOf P, rfl, rfl, not_mem_inbox_resetOf P, rfl⟩

/-! ## One turn of the decoder's state machine -/

/-- The states `Flags` to `Err`: those whose rule is one `ReadHeaderByte` and then writes of registers
(spec/45_decoder.md R224 to R230). -/
def readsField : DecState → Bool
  | .flags | .target | .source | .device | .command | .seqNo | .err => true
  | _ => false

/-- What the rule of the state `S`, one of `Flags` to `Err`, does with the byte `v` its header read answered. -/
def storeField (S : DecState) (v : Byte) (r : DecRegs) : DecRegs :=
  match S with
  | .flags =>
    { r with
      f := v
      state := if hasFlag v .hasTarget then .target else if hasFlag v .hasSource then .source else .device }
  | .target => { r with tgt := v, state := if hasFlag r.f .hasSource then .source else .device }
  | .source => { r with src := v, state := .device }
  | .device => { r with dev := v, state := .command }
  | .command => { r with cmd := v, state := .seqNo }
  | .seqNo => { r with seq := v, state := if hasFlag r.f .isResponse then .err else .data }
  | .err => { r with err := v, state := .data }
  | _ => r

@[simp] theorem storeField_pos (S : DecState) (v : Byte) (r : DecRegs) : (storeField S v r).pos = r.pos := by
  cases S <;> rfl

@[simp] theorem storeField_len (S : DecState) (v : Byte) (r : DecRegs) : (storeField S v r).len = r.len := by
  cases S <;> rfl

/-- The header states of spec/10_state.md R33, `DEC_STATE` 0 to 7, are `Start` and those that read a field. -/
theorem decStateCode_le_seven_iff (S : DecState) :
    (decStateCode S).toNat ≤ 7 ↔ S = .start ∨ readsField S = true := by
  cases S <;> decide

theorem decStep_readsField {r : DecRegs} (hS : readsField r.state = true) (P : Params) (inp : List Byte) :
    decStep P inp r = readHeaderByte inp r.state r >>= fun p => .ok (storeField r.state p.1 p.2) := by
  unfold decStep
  cases hs : r.state with
  | flags | target | source | device | command | seqNo | err => rfl
  | start | data | checksum | endState | validated | idle => simp [hs, readsField] at hS

theorem decStep_readsField_ok {P : Params} {inp : List Byte} {r r' : DecRegs} (hS : readsField r.state = true)
    (h : decStep P inp r = .ok r') :
    r.pos < r.len ∧ ∃ v, inp[r.pos]? = some v ∧ r' = storeField r.state v { r with pos := r.pos + 1 } := by
  rw [decStep_readsField hS] at h
  obtain ⟨-, hread⟩ | ⟨v, hlt, hv, hread⟩ | ⟨-, -, hread⟩ := readHeaderByte_cases inp r.state r <;> rw [hread] at h
  · cases h
  · cases h
    exact ⟨hlt, v, hv, rfl⟩
  · cases h

/-- A rule that reads a byte and goes on did read it, and went on from it. -/
theorem memRead_bind_eq_ok {α : Type} {inp : List Byte} {i : Nat} {k : Byte → Except Stop α} {x : α} :
    (memRead inp i >>= k) = .ok x ↔ ∃ v, inp[i]? = some v ∧ k v = .ok x := by
  unfold memRead
  cases inp[i]? <;> simp [bind, Except.bind]

theorem decStart_ok {P : Params} {inp : List Byte} {r r' : DecRegs} (h : decStart P inp r = .ok r') :
    r.len ≠ 0 ∧ inp[0]? = some P.startMarker ∧ r' = { r with pos := 1, state := .flags } := by
  unfold decStart at h
  split at h
  · cases h
  · rename_i hlen
    obtain ⟨b, hb, h⟩ := memRead_bind_eq_ok.1 h
    split at h
    · cases h
    · rename_i hm
      cases h
      exact ⟨hlen, not_not.1 hm ▸ hb, rfl⟩

theorem decData_ok {P : Params} {inp : List Byte} {r r' : DecRegs} (h : decData P inp r = .ok r') :
    r.pos + 2 ≤ r.len ∧ ∃ B, unescapeBytes P (slice inp r.pos (r.len - 2)) r.pos = .ok B ∧
      r' = { r with dend := r.len - 2, payload := B, pos := r.len - 2, state := .checksum } := by
  unfold decData at h
  split at h
  · cases h
  · rename_i hlen
    cases hB : unescapeBytes P (slice inp r.pos (r.len - 2)) r.pos with
    | error e => simp [hB] at h
    | ok B =>
      simp only [hB] at h
      cases h
      exact ⟨by omega, B, rfl, rfl⟩

theorem decChecksum_ok {inp : List Byte} {r r' : DecRegs} (h : decChecksum inp r = .ok r') :
    inp[r.pos]? = some (checksumBytes (slice inp 1 r.dend)) ∧
      r' = { r with pos := r.pos + 1, state := .endState } := by
  obtain ⟨v, hv, h⟩ := memRead_bind_eq_ok.1 h
  split at h
  · cases h
  · rename_i hc
    cases h
    exact ⟨not_not.1 hc ▸ hv, rfl⟩

theorem decEnd_ok {P : Params} {inp : List Byte} {r r' : DecRegs} (h : decEnd P inp r = .ok r') :
    inp[r.pos]? = some P.endMarker ∧ r.pos + 1 = r.len ∧ r' = { r with pos := r.pos + 1, state := .validated } := by
  obtain ⟨v, hv, h⟩ := memRead_bind_eq_ok.1 h
  split at h
  · cases h
  · rename_i hm
    split at h
    · cases h
    · rename_i hlen
      cases h
      exact ⟨not_not.1 hm ▸ hv, not_not.1 hlen, rfl⟩

/-- Everything a turn that does not stop can do, with what it has checked. -/
theorem decStep_ok {P : Params} {inp : List Byte} {r r' : DecRegs} (h : decStep P inp r = .ok r') :
    (r.state = .start ∧ r.len ≠ 0 ∧ inp[0]? = some P.startMarker ∧ r' = { r with pos := 1, state := .flags }) ∨
    (readsField r.state = true ∧ r.pos < r.len ∧
      ∃ v, inp[r.pos]? = some v ∧ r' = storeField r.state v { r with pos := r.pos + 1 }) ∨
    (r.state = .data ∧ r.pos + 2 ≤ r.len ∧ ∃ B, unescapeBytes P (slice inp r.pos (r.len - 2)) r.pos = .ok B ∧
      r' = { r with dend := r.len - 2, payload := B, pos := r.len - 2, state := .checksum }) ∨
    (r.state = .checksum ∧ inp[r.pos]? = some (checksumBytes (slice inp 1 r.dend)) ∧
      r' = { r with pos := r.pos + 1, state := .endState }) ∨
    (r.state = .endState ∧ inp[r.pos]? = some P.endMarker ∧ r.pos + 1 = r.len ∧
      r' = { r with pos := r.pos + 1, state := .validated }) := by
  by_cases hS : readsField r.state = true
  · exact .inr (.inl ⟨hS, decStep_readsField_ok hS h⟩)
  · unfold decStep at h
    cases hs : r.state with
    | flags | target | source | device | command | seqNo | err => simp [hs, readsField] at hS
    | start => exact .inl ⟨rfl, decStart_ok (by simpa only [hs] using h)⟩
    | data => exact .inr (.inr (.inl ⟨rfl, decData_ok (by simpa only [hs] using h)⟩))
    | checksum => exact .inr (.inr (.inr (.inl ⟨rfl, decChecksum_ok (by simpa only [hs] using h)⟩)))
    | endState => exact .inr (.inr (.inr (.inr ⟨rfl, decEnd_ok (by simpa only [hs] using h)⟩)))
    | validated | idle => simp [hs] at h

/-! ## The decoder's position -/

/-- How a turn moves `DEC_POS`, from a position a `DECODE` can be at. That a byte was read is what keeps it within the
buffer. -/
theorem decStep_pos {P : Params} {inp : List Byte} {r r' : DecRegs} (hlen : r.len = inp.length)
    (hstart : r.state = .start → r.pos = 0) (h : decStep P inp r = .ok r') :
    r.pos ≤ r'.pos ∧ r'.pos ≤ r'.len ∧ r'.len = r.len ∧
    (r.state ≠ .data → r'.pos = r.pos + 1) ∧ (r.state = .data → r'.pos = r.len - 2 ∧ r'.dend = r.len - 2) := by
  obtain ⟨hs, hne, -, rfl⟩ | ⟨hs, hlt, v, -, rfl⟩ | ⟨hs, hfit, B, -, rfl⟩ | ⟨hs, hread, rfl⟩ | ⟨hs, -, hend, rfl⟩ :=
    decStep_ok h
  · simp [hs, hstart hs]
    omega
  · have hdata : r.state ≠ .data := fun hd => by simp [hd, readsField] at hs
    simp [hdata]
    omega
  · simp [hs]
    omega
  · have hlt := (List.getElem?_eq_some_iff.1 hread).1
    simp [hs]
    omega
  · simp [hs]
    omega

/-- `Start` and every header state after it report the end of the buffer at `DEC_POS`, with themselves as the state that ran
out of input (spec/45_decoder.md R222, R223). -/
theorem decStep_header_truncated {r : DecRegs} (P : Params) (inp : List Byte) (hstart : r.state = .start → r.pos = 0)
    (hS : (decStateCode r.state).toNat ≤ 7) (h : r.len ≤ r.pos) :
    decStep P inp r = .error (.error (.truncatedFrame r.pos r.state)) := by
  rcases (decStateCode_le_seven_iff r.state).1 hS with hs | hs
  · have hpos : r.pos = 0 := hstart hs
    have hlen : r.len = 0 := by omega
    simp [decStep, decStart, hs, hpos, hlen]
  · rw [decStep_readsField hs, readHeaderByte_truncated h]
    rfl

/-- `Data` reports a buffer without room for the checksum and the end marker (spec/45_decoder.md R231). -/
theorem decStep_data_truncated {r : DecRegs} (P : Params) (inp : List Byte) (hS : r.state = .data)
    (h : r.len < r.pos + 2) : decStep P inp r = .error (.error (.truncatedFrame r.len .data)) := by
  have hshort : r.len - r.pos < 2 := by omega
  simp [decStep, decData, hS, hshort]

/-- Settles O25, from the cases of one turn. -/
theorem decoderPositionNeverGoesBack : Obligations.DecoderPositionNeverGoesBack := fun P inp _ =>
  ⟨⟨rfl, rfl, rfl⟩, fun hlen _ hstart =>
    ⟨fun _ h => decStep_pos hlen hstart h, decStep_header_truncated P inp hstart, decStep_data_truncated P inp⟩⟩

end Sys2Proof.Machine
end

section
/-! PROOFS. The length refusal of spec/20_memory.md R55: how long each output is, and what is refused for it. -/

namespace Sys2Proof.Machine

open Sys2Proof.Claims

/-! ## The model's length checks and the words of the statements -/

theorem withinMaxLen_iff {P : Params} {n : Nat} : WithinMaxLen P n ↔ P.fits n = true := fits_iff.symm

theorem operandsWithin_iff {s : State} : OperandsWithin s ↔ operandsFit s.params s.req = true := by
  rw [operandsFit_iff, OperandsWithin, withinMaxLen_iff, withinMaxLen_iff]

/-- `perform_refused` and its converse: a request is refused for its operands or for what it would deliver. -/
theorem perform_refused_iff {s : State} {run : Except Stop (State × Response)} {x : Refusal} :
    perform s run = .refused x ↔
      x = .lengthExceeded ∧
      (¬OperandsWithin s ∨ ∃ t o, run = .ok (t, o) ∧ outputFits s.params o = false) := by
  rw [operandsWithin_iff, Bool.not_eq_true]
  refine ⟨perform_refused, ?_⟩
  rintro ⟨rfl, hs | ⟨t, o, rfl, ho⟩⟩
  · simp [perform, hs]
  · simp [perform, ho]

/-- An operation whose output fits whenever its operands do is refused for its operands alone. -/
theorem perform_refused_iff_of_fitting {s : State} {run : Except Stop (State × Response)} {x : Refusal}
    (hfit : ∀ t o, OperandsWithin s → run = .ok (t, o) → outputFits s.params o = true) :
    perform s run = .refused x ↔ x = .lengthExceeded ∧ ¬OperandsWithin s := by
  rw [perform_refused_iff]
  refine and_congr_right fun _ => ⟨?_, .inl⟩
  rintro (hs | ⟨t, o, ho, hlong⟩) hin
  · exact hs hin
  · simp [hfit t o hin ho] at hlong

theorem perform_ok_refused_iff_of_fitting {s t : State} {r : Response} {x : Refusal}
    (hfit : OperandsWithin s → outputFits s.params r = true) :
    perform s (.ok (t, r)) = .refused x ↔ x = .lengthExceeded ∧ ¬OperandsWithin s :=
  perform_refused_iff_of_fitting fun _ _ hin ho => by
    cases ho
    exact hfit hin

/-- An operation that delivers a buffer and no packet is refused for its operands or for that buffer. -/
theorem perform_buf_refused_iff {s t : State} {B : List Byte} {x : Refusal} :
    perform s (.ok (t, { status := .ok, buf := some B })) = .refused x ↔
      x = .lengthExceeded ∧ (¬OperandsWithin s ∨ ¬WithinMaxLen s.params B.length) := by
  simp [perform_refused_iff, withinMaxLen_iff, outputFits]

/-! ## Escaper -/

theorem escapeBytes_eq_escaped (P : Params) (B : List Byte) : escapeBytes P B = escaped P B := by
  induction B with
  | nil => rfl
  | cons b B ih => rw [escapeBytes, ih]; rfl

theorem map_cons_eq_ok {v : Byte} {e : Except CodecError (List Byte)} {B : List Byte} :
    e.map (v :: ·) = .ok B ↔ ∃ D, e = .ok D ∧ B = v :: D := by
  cases e <;> simp [Except.map, eq_comm]

/-- Unescaping never lengthens: each byte of the output consumed at least one of the input. -/
theorem unescapeBytes_length_le {P : Params} {C B : List Byte} {base : Nat} (h : unescapeBytes P C base = .ok B) :
    B.length ≤ C.length := by
  induction C, base using unescapeBytes.induct P generalizing B with
  | case1 base =>
    cases h
    exact le_rfl
  | case2 base =>
    rw [unescapeBytes_trailing] at h
    cases h
  | case3 base c D m hm ih =>
    rw [unescapeBytes_pair hm] at h
    obtain ⟨E, hE, rfl⟩ := map_cons_eq_ok.1 h
    simpa using (ih hE).trans (Nat.le_succ _)
  | case4 base c D hc =>
    rw [unescapeBytes_badCode hc] at h
    cases h
  | case5 b C base hb hm =>
    rw [unescapeBytes_raw hb hm] at h
    cases h
  | case6 b C base hb hm ih =>
    obtain ⟨hs, he⟩ := not_or.1 hm
    rw [unescapeBytes_plain hb hs he] at h
    obtain ⟨E, hE, rfl⟩ := map_cons_eq_ok.1 h
    simpa using ih hE

theorem slice_length_le (B : List Byte) (i j : Nat) : (slice B i j).length ≤ B.length := by
  simp [slice]

/-! ## Decoder -/

/-- What every turn of the state machine keeps holds when the loop comes to `Validated`. -/
theorem decLoop_keeps {P : Params} {inp : List Byte} {I : DecRegs → Prop}
    (hstep : ∀ r r', I r → decStep P inp r = .ok r' → I r') {fuel : Nat} {r r' : DecRegs} (hI : I r)
    (h : decLoop P inp fuel r = .ok r') : I r' ∧ r'.state = .validated := by
  induction fuel generalizing r with
  | zero =>
    unfold decLoop at h
    split at h
    · rename_i hv
      cases h
      exact ⟨hI, hv⟩
    · cases h
  | succ fuel ih =>
    unfold decLoop at h
    split at h
    · rename_i hv
      cases h
      exact ⟨hI, hv⟩
    · cases hr : decStep P inp r with
      | error e => simp [hr, bind, Except.bind] at h
      | ok r₁ => exact ih (hstep r r₁ hI hr) (by simpa [hr, bind, Except.bind] using h)

/-- The states after `Data`: those in which `DEC_PAYLOAD` holds what was unescaped from the buffer
(spec/45_decoder.md R231). -/
def holdsPayload : DecState → Bool
  | .checksum | .endState | .validated => true
  | _ => false

/-- Once a `DECODE` of `inp` has written `DEC_PAYLOAD`, it is no longer than `inp`. -/
def PayloadBounded (inp : List Byte) (r : DecRegs) : Prop :=
  holdsPayload r.state = true → r.payload.length ≤ inp.length

theorem holdsPayload_storeField {S : DecState} (hS : readsField S = true) (v : Byte) (r : DecRegs) :
    holdsPayload (storeField S v r).state = false := by
  cases S with
  | flags | target | seqNo => simp only [storeField]; split_ifs <;> rfl
  | source | device | command | err => rfl
  | start | data | checksum | endState | validated | idle => cases hS

theorem decStep_payloadBounded {P : Params} {inp : List Byte} {r r' : DecRegs} (hr : PayloadBounded inp r)
    (h : decStep P inp r = .ok r') : PayloadBounded inp r' := by
  obtain ⟨-, -, -, rfl⟩ | ⟨hS, -, v, -, rfl⟩ | ⟨-, -, B, hB, rfl⟩ | ⟨hS, -, rfl⟩ | ⟨hS, -, -, rfl⟩ := decStep_ok h
  · simp [PayloadBounded, holdsPayload]
  · simp [PayloadBounded, holdsPayload_storeField hS]
  · exact fun _ => (unescapeBytes_length_le hB).trans (slice_length_le ..)
  · exact fun _ => hr (by rw [hS]; rfl)
  · exact fun _ => hr (by rw [hS]; rfl)

/-- A packet decoded from a buffer has no longer payload than the buffer. -/
theorem decRun_payload_length_le {P : Params} {inp : List Byte} {r : DecRegs} {p : Packet}
    (h : decRun P inp r = .ok p) : p.payload.length ≤ inp.length := by
  unfold decRun at h
  cases hr : decLoop P inp decMaxSteps (decInit inp r) with
  | error e => simp [hr, bind, Except.bind] at h
  | ok r' =>
    simp only [hr, bind, Except.bind] at h
    cases h
    obtain ⟨hbound, hv⟩ := decLoop_keeps (I := PayloadBounded inp) (fun _ _ => decStep_payloadBounded)
      (by simp [PayloadBounded, decInit, holdsPayload]) hr
    exact hbound (by rw [hv]; rfl)

/-! ## Encoder -/

theorem encodeBody_eq (P : Params) (p : Packet) : encodeBody P p = P.startMarker :: bodyOf P p := by
  simp [encodeBody, encodeHeader, emitAll, emit, emitIf_eq, bodyOf, headerOf, presentByte, escapeBytes_eq_escaped]

/-- The checksum byte aside, `ENCODE` builds the frame of the table in spec/30_encoding.md R75. -/
theorem encodeFrame_eq (P : Params) (p : Packet) :
    encodeFrame P p = P.startMarker :: (bodyOf P p ++ [checksumBytes (bodyOf P p), P.endMarker]) := by
  simp only [encodeFrame, encodeBody_eq, slice_full, emit]
  simp

theorem encodeFrame_length (P : Params) (p : Packet) : (encodeFrame P p).length = (frameOf P p).length := by
  simp [encodeFrame_eq, frameOf]

/-! ## The refusal -/

/-- No operation but `ESCAPE` and `ENCODE` delivers more bytes than one of its operands holds. -/
theorem exec_refused_iff_of_fitting {i : Instr} (hesc : i ≠ .escape) (henc : i ≠ .encode) {s : State} {x : Refusal} :
    exec i s = .refused x ↔ x = .lengthExceeded ∧ ¬OperandsWithin s := by
  cases i with
  | escape => exact absurd rfl hesc
  | encode => exact absurd rfl henc
  | flagsUnion | flagsTest | flagsFromByte | flagsToByte | nodePack | nodeUnpack | seqNext | checksum =>
    exact perform_ok_refused_iff_of_fitting fun _ => rfl
  | pktNew => exact perform_ok_refused_iff_of_fitting fun ⟨hbuf, _⟩ => withinMaxLen_iff.1 hbuf
  | pktWithSource | pktWithTarget => exact perform_ok_refused_iff_of_fitting fun ⟨_, hpkt⟩ => withinMaxLen_iff.1 hpkt
  | unescape =>
    refine perform_refused_iff_of_fitting fun t o ⟨hbuf, _⟩ ho => ?_
    cases hB : unescapeBytes s.params s.req.buf 0 with
    | error e => simp [hB] at ho
    | ok B =>
      simp only [hB] at ho
      cases ho
      simpa [outputFits] using fits_mono (unescapeBytes_length_le hB) (withinMaxLen_iff.1 hbuf)
  | decode =>
    refine perform_refused_iff_of_fitting fun t o ⟨hbuf, _⟩ ho => ?_
    cases hp : decRun s.params s.req.buf s.dec with
    | error e => simp [hp] at ho
    | ok p =>
      simp only [hp] at ho
      cases ho
      simpa [outputFits] using fits_mono (decRun_payload_length_le hp) (withinMaxLen_iff.1 hbuf)

theorem exec_escape_refused_iff {s : State} {x : Refusal} :
    exec .escape s = .refused x ↔
      x = .lengthExceeded ∧ (¬OperandsWithin s ∨ ¬WithinMaxLen s.params (escaped s.params s.req.buf).length) := by
  rw [← escapeBytes_eq_escaped]
  exact perform_buf_refused_iff

theorem exec_encode_refused_iff {s : State} {x : Refusal} :
    exec .encode s = .refused x ↔
      x = .lengthExceeded ∧ (¬OperandsWithin s ∨ ¬WithinMaxLen s.params (frameOf s.params s.req.pkt).length) := by
  rw [← encodeFrame_length]
  exact perform_buf_refused_iff

/-- R55, first half: of all operations only `ESCAPE` and `ENCODE` can be refused for their output. -/
theorem exec_refused_iff (i : Instr) (s : State) (x : Refusal) :
    exec i s = .refused x ↔
      x = .lengthExceeded ∧
      (¬OperandsWithin s ∨
        (i = .escape ∧ ¬WithinMaxLen s.params (escaped s.params s.req.buf).length) ∨
        (i = .encode ∧ ¬WithinMaxLen s.params (frameOf s.params s.req.pkt).length)) := by
  by_cases hesc : i = .escape
  · subst hesc
    simp [exec_escape_refused_iff]
  · by_cases henc : i = .encode
    · subst henc
      simp [exec_encode_refused_iff]
    · simp [exec_refused_iff_of_fitting hesc henc, hesc, henc]

/-- Settles O44: what can be too long for each operation, and `hasStep` as the absence of that refusal. -/
theorem refusalIsForLengthAlone : Obligations.RefusalIsForLengthAlone := by
  refine ⟨exec_refused_iff, fun s id r i x hdec hx => ?_⟩
  obtain ⟨rfl, -⟩ := (exec_refused_iff i _ x).1 hx
  exact hasStep_eq_false.2 ((performRequest_legal hdec).trans hx)

end Sys2Proof.Machine
end

section
/-! PROOFS. The encodings of spec/30_encoding.md: command words, status codes, and where the fields of a frame stand. -/

namespace Sys2Proof.Machine

open Sys2Proof.Claims

/-! ## Command words -/

/-! The three fields of an encoded command word (spec/30_encoding.md R71). -/

@[simp] theorem cmdOp_encode (i : Instr) : cmdOp (encode i) = opCode i := BitVec.extractLsb'_append_eq_right

@[simp] theorem cmdImm_encode (i : Instr) : cmdImm (encode i) = immField i :=
  (BitVec.extractLsb'_append_eq_of_le le_rfl).trans BitVec.extractLsb'_append_eq_right

@[simp] theorem cmdRsv_encode (i : Instr) : cmdRsv (encode i) = false := by
  rw [cmdRsv, encode, BitVec.getLsbD_append, BitVec.getLsbD_append]
  rfl

/-- The row that an operation's own code selects is that operation. -/
@[simp] theorem opRow_opCode (i : Instr) : opRow (opCode i) (immField i) = some i := by
  cases i <;> rfl

/-- Only `FLAGS_TEST` has an immediate (spec/30_encoding.md R71). -/
theorem opCode_of_immField_ne_zero {i : Instr} (h : immField i ≠ 0) : opCode i = 0x2 := by
  cases i with
  | flagsTest bit => rfl
  | _ => exact absurd rfl h

/-- The decoder reads back what the encoder writes. -/
theorem decode_encode (i : Instr) : decode (encode i) = .ok i := by
  have himm : ¬(immField i ≠ 0 ∧ opCode i ≠ 0x2) := fun ⟨h, hne⟩ => hne (opCode_of_immField_ne_zero h)
  simp only [decode, cmdOp_encode, cmdImm_encode, cmdRsv_encode, opRow_opCode, if_neg himm, Bool.false_eq_true,
    if_false]

/-- The word of `FLAGS_TEST` in the table of spec/30_encoding.md R72: the index in bits 4 to 6 over `OP` 0x2. -/
theorem encode_flagsTest : ∀ bit : BitVec 3, encode (.flagsTest bit) = 0x02#8 ||| (bit.setWidth 8 <<< 4) := by
  decide

/-- Settles O1: each word of the table is the encoded form of its row's operation, so `decode_encode` reads that operation
back; 0x00 selects no row. -/
theorem commandWordsNameTheirOperations : Obligations.CommandWordsNameTheirOperations :=
  ⟨rfl, decode_encode .flagsUnion, fun bit => encode_flagsTest bit ▸ decode_encode (.flagsTest bit),
    decode_encode .flagsFromByte, decode_encode .flagsToByte, decode_encode .nodePack, decode_encode .nodeUnpack,
    decode_encode .seqNext, decode_encode .pktNew, decode_encode .pktWithSource, decode_encode .pktWithTarget,
    decode_encode .escape, decode_encode .unescape, decode_encode .checksum, decode_encode .encode,
    decode_encode .decode⟩

/-! ## Status codes -/

/-- The reserved codes 0x5 to 0xE are no status (spec/30_encoding.md R84). -/
theorem statusCode_not_reserved (x : Status) : (statusCode x).toNat < 5 ∨ (statusCode x).toNat = 15 := by
  cases x with
  | illegalOp => exact .inr rfl
  | ok | framingError | malformedEscape | checksumMismatch | truncatedFrame => exact .inl (by decide)

/-- Settles O48: the table row by row, then the codes that are none of its rows. -/
theorem statusCodesAreTheTable : Obligations.StatusCodesAreTheTable :=
  ⟨rfl, rfl, rfl, rfl, rfl, rfl, statusCode_not_reserved⟩

/-! ## Checksum -/

theorem byteSum_toNat (B : List Byte) : (byteSum B).toNat = (B.map BitVec.toNat).sum % 256 := by
  induction B with
  | nil => rfl
  | cons b B ih => simp [ih]

theorem checksumBytes_eq_not (B : List Byte) : checksumBytes B = ~~~byteSum B := BitVec.allOnes_xor

/-- The checksum is the second reading of it in spec/43_checksum.md R191. -/
theorem checksumBytes_eq_complementOfSum (B : List Byte) : checksumBytes B = complementOfSum B := by
  apply BitVec.eq_of_toNat_eq
  rw [checksumBytes_eq_not, BitVec.toNat_not, byteSum_toNat, complementOfSum, BitVec.toNat_ofNat]
  omega

/-! ## The parts of a frame -/

/-- An escape adds one byte for each reserved byte (spec/30_encoding.md R81). -/
theorem escapeByte_length (P : Params) (b : Byte) :
    (escapeByte P b).length = 1 + if P.reserved b then 1 else 0 := by
  unfold escapeByte Params.reserved
  split_ifs <;> simp_all

theorem escaped_length (P : Params) (B : List Byte) : (escaped P B).length = B.length + B.countP P.reserved := by
  rw [← escapeBytes_eq_escaped]
  induction B with
  | nil => rfl
  | cons b B ih =>
    rw [escapeBytes, List.length_append, escapeByte_length, ih, List.length_cons, List.countP_cons]
    omega

@[simp] theorem presentByte_length (c : Bool) (v : Byte) : (presentByte c v).length = if c then 1 else 0 := by
  cases c <;> rfl

/-- The header is as long as its flags say (spec/30_encoding.md R76). -/
theorem headerOf_length (p : Packet) : (headerOf p).length + 1 = headerLen p.flags := by
  simp [headerOf, headerLen, flagCount]
  omega

theorem headerLen_bounds (flags : Byte) : 5 ≤ headerLen flags ∧ headerLen flags ≤ 8 := by
  unfold headerLen flagCount
  split_ifs <;> decide

/-- A frame cut after its header: the data region and the two bytes of the suffix follow (spec/30_encoding.md R77). -/
theorem encodeFrame_eq_header_append (P : Params) (p : Packet) :
    encodeFrame P p =
      (P.startMarker :: headerOf p) ++ (escaped P p.payload ++ [complementOfSum (bodyOf P p), P.endMarker]) := by
  rw [encodeFrame_eq, checksumBytes_eq_complementOfSum, bodyOf]
  simp

/-- What stands in a frame from the error code on, which is there in a response only (spec/30_encoding.md R75). -/
def fromErrCode (P : Params) (p : Packet) : List Byte :=
  presentByte (p.flags.getLsbD 0) p.errCode ++
    (escaped P p.payload ++ [complementOfSum (bodyOf P p), P.endMarker])

/-- A frame cut at the optional bytes of its header (spec/30_encoding.md R75). -/
theorem encodeFrame_eq_fields (P : Params) (p : Packet) :
    encodeFrame P p =
      P.startMarker :: p.flags :: (presentByte (p.flags.getLsbD 4) p.target ++
        (presentByte (p.flags.getLsbD 5) p.source ++
          p.device :: p.command :: p.seq :: fromErrCode P p)) := by
  rw [encodeFrame_eq_header_append, headerOf, fromErrCode]
  simp

/-- `L = H + n + r + 2` (spec/30_encoding.md R77). -/
theorem encodeFrame_length_eq (P : Params) (p : Packet) :
    (encodeFrame P p).length = headerLen p.flags + (p.payload.length + p.payload.countP P.reserved) + 2 := by
  rw [encodeFrame_eq_header_append, ← headerOf_length, ← escaped_length]
  simp
  omega

/-- The data region is the escaped payload (spec/30_encoding.md R77). -/
theorem encodeFrame_dataRegion (P : Params) (p : Packet) :
    ((encodeFrame P p).drop (headerLen p.flags)).take (p.payload.length + p.payload.countP P.reserved) =
      escaped P p.payload := by
  rw [encodeFrame_eq_header_append, ← headerOf_length, ← escaped_length, List.drop_left' (by simp), List.take_left]

/-! ## Where the fields stand -/

/-- What stands in a frame from `TARGET`, then from `SOURCE`, then from `DEVICE` on, absent fields taking no byte
(spec/30_encoding.md R76). -/
theorem encodeFrame_drop_target (P : Params) (p : Packet) :
    (encodeFrame P p).drop 2 =
      presentByte (p.flags.getLsbD 4) p.target ++ (presentByte (p.flags.getLsbD 5) p.source ++
        p.device :: p.command :: p.seq :: fromErrCode P p) := by
  rw [encodeFrame_eq_fields]
  rfl

theorem encodeFrame_drop_source (P : Params) (p : Packet) :
    (encodeFrame P p).drop (2 + flagCount p.flags .hasTarget) =
      presentByte (p.flags.getLsbD 5) p.source ++ p.device :: p.command :: p.seq :: fromErrCode P p := by
  rw [← List.drop_drop, encodeFrame_drop_target]
  exact List.drop_left' (presentByte_length ..)

theorem encodeFrame_drop_device (P : Params) (p : Packet) :
    (encodeFrame P p).drop (2 + flagCount p.flags .hasTarget + flagCount p.flags .hasSource) =
      p.device :: p.command :: p.seq :: fromErrCode P p := by
  rw [← List.drop_drop, encodeFrame_drop_source]
  exact List.drop_left' (presentByte_length ..)

theorem encodeFrame_drop_suffix (P : Params) (p : Packet) :
    (encodeFrame P p).drop ((encodeFrame P p).length - 2) = [complementOfSum (bodyOf P p), P.endMarker] := by
  rw [encodeFrame_eq_header_append, ← List.append_assoc]
  exact List.drop_left' (by simp; omega)

theorem getElem?_of_drop {F G : List Byte} {i j n : Nat} (h : F.drop i = G) (hn : n = i + j) : F[n]? = G[j]? := by
  rw [hn, ← h, List.getElem?_drop]

theorem eq_true_of_ite_eq_one {c : Bool} (h : (if c then 1 else 0) = 1) : c = true := by
  simpa using h

theorem encodeFrame_target {p : Packet} (P : Params) (h : p.flags.getLsbD 4 = true) :
    (encodeFrame P p)[2]? = some p.target := by
  simp [encodeFrame_eq_fields, h, presentByte]

theorem encodeFrame_source {p : Packet} (P : Params) (h : p.flags.getLsbD 5 = true) :
    (encodeFrame P p)[2 + flagCount p.flags .hasTarget]? = some p.source := by
  rw [getElem?_of_drop (encodeFrame_drop_source P p) (Nat.add_zero _).symm]
  simp [h, presentByte]

theorem fromErrCode_head {p : Packet} (P : Params) (h : p.flags.getLsbD 0 = true) :
    (fromErrCode P p)[0]? = some p.errCode := by
  simp [fromErrCode, h, presentByte]

/-- `7 ≤ L ≤ 10 + 2n`: a header has 5 to 8 bytes, and at most every payload byte is escaped
(spec/30_encoding.md R76, R77). -/
theorem encodeFrame_length_bounds (P : Params) (p : Packet) :
    7 ≤ (encodeFrame P p).length ∧ (encodeFrame P p).length ≤ 10 + 2 * p.payload.length := by
  have hreserved : p.payload.countP P.reserved ≤ p.payload.length := List.countP_le_length
  have hheader := headerLen_bounds p.flags
  rw [encodeFrame_length_eq]
  omega

/-- Settles O34: the frame is cut by `drop` at the source, the device and the suffix, and each field is read off the front of
what is left. -/
theorem frameFieldsStandAtTheirOffsets : Obligations.FrameFieldsStandAtTheirOffsets := by
  intro P p nT nS nE H k F
  obtain ⟨hL7, hLmax⟩ : 7 ≤ F.length ∧ F.length ≤ 10 + 2 * p.payload.length := encodeFrame_length_bounds P p
  obtain ⟨hH5, hH8⟩ : 5 ≤ H ∧ H ≤ 8 := headerLen_bounds p.flags
  obtain ⟨hstart, hflags⟩ : F[0]? = some P.startMarker ∧ F[1]? = some p.flags := by
    simp [F, encodeFrame_eq_fields]
  have hdevice : F.drop (2 + nT + nS) = p.device :: p.command :: p.seq :: fromErrCode P p := encodeFrame_drop_device P p
  have hsuffix : F.drop (F.length - 2) = [complementOfSum (bodyOf P p), P.endMarker] := encodeFrame_drop_suffix P p
  have herr (h : nE = 1) : F[5 + nT + nS]? = some p.errCode :=
    (getElem?_of_drop (j := 3) hdevice (by omega)).trans (fromErrCode_head P (eq_true_of_ite_eq_one h))
  exact ⟨hstart, hflags, fun h => encodeFrame_target P (eq_true_of_ite_eq_one h),
    fun h => encodeFrame_source P (eq_true_of_ite_eq_one h),
    getElem?_of_drop (j := 0) hdevice rfl, getElem?_of_drop (j := 1) hdevice (by omega),
    getElem?_of_drop (j := 2) hdevice (by omega), herr, encodeFrame_length_eq P p, encodeFrame_dataRegion P p,
    getElem?_of_drop (j := 0) hsuffix rfl, getElem?_of_drop (j := 1) hsuffix (by omega), hH5, hH8, hL7, hLmax⟩

end Sys2Proof.Machine
end

section
/-! PROOFS. The laws of the flag set and of packed node addresses (spec/40_flags_nodes.md). -/

namespace Sys2Proof.Machine

/-! ## Flag Set -/

@[simp] theorem flagsUnion_getLsbD (a b : Byte) (k : Nat) :
    (flagsUnion a b).getLsbD k = (a.getLsbD k || b.getLsbD k) := BitVec.getLsbD_or

/-- The test answers 0x01 exactly when the bit is set (spec/40_flags_nodes.md R111). -/
theorem flagsTest_eq_one_iff (a : Byte) (i : BitVec 3) : flagsTest a i = 0x01 ↔ a.getLsbD i.toNat = true := by
  unfold flagsTest
  cases a.getLsbD i.toNat with
  | true => exact iff_of_true rfl rfl
  | false => exact iff_of_false (by decide) Bool.false_ne_true

theorem flagsTest_flagsUnion_eq_one_iff (a b : Byte) (i : BitVec 3) :
    flagsTest (flagsUnion a b) i = 0x01 ↔ flagsTest a i = 0x01 ∨ flagsTest b i = 0x01 := by
  simp only [flagsTest_eq_one_iff, flagsUnion_getLsbD, Bool.or_eq_true]

/-- Only its own response stands at the interface after an operation that cannot fail. -/
theorem answer_rsp {s t : State} {r : Response} (h : answer s r = .next t) : t.rsp = some r := by
  obtain ⟨-, -, rfl⟩ := answer_next h
  exact State.deliver_rsp s r

/-- Settles O26: union is `|||`, a test reads one bit of it, and both conversions answer `REQ.A`. -/
theorem flagSetLaws : Obligations.FlagSetLaws := by
  refine ⟨fun a b c => ⟨BitVec.or_comm a b, BitVec.or_assoc a b c, BitVec.or_self, BitVec.or_zero⟩,
    flagsTest_flagsUnion_eq_one_iff, fun s t r hexec hr => ?_⟩
  have hanswer : answer s { status := .ok, r0 := some s.req.a } = .next t := hexec.elim id id
  cases hr.symm.trans (answer_rsp hanswer)
  rfl

/-! ## Node Address -/

@[simp] theorem portId_packNode (p n : BitVec 4) : portId (packNode p n) = p := BitVec.extractLsb'_append_eq_left

@[simp] theorem nodeId_packNode (p n : BitVec 4) : nodeId (packNode p n) = n := BitVec.extractLsb'_append_eq_right

@[simp] theorem packNode_portId_nodeId (b : Byte) : packNode (portId b) (nodeId b) = b :=
  BitVec.extractLsb'_append_extractLsb' (w := 4) (len := 4)

/-- The port is the high nibble and the node number the low one (spec/10_state.md R29). -/
theorem packNode_toNat (p n : BitVec 4) : (packNode p n).toNat = 16 * p.toNat + n.toNat :=
  calc (packNode p n).toNat = p.toNat <<< 4 ||| n.toNat := BitVec.toNat_append p n
    _ = p.toNat <<< 4 + n.toNat := (Nat.shiftLeft_add_eq_or_of_lt n.isLt p.toNat).symm
    _ = 16 * p.toNat + n.toNat := by rw [Nat.shiftLeft_eq]; omega

/-- Settles O27: the two nibbles of a byte joined by `++` are read back, and each byte is its two nibbles joined. -/
theorem nodePackingIsABijection : Obligations.NodePackingIsABijection :=
  ⟨fun p n => ⟨portId_packNode p n, nodeId_packNode p n, packNode_toNat p n⟩, packNode_portId_nodeId⟩

end Sys2Proof.Machine
end

section
/-! PROOFS. The Sequence Generator and packet construction (spec/41_sequence_packet.md). -/

namespace Sys2Proof.Machine

open Sys2Proof.Claims

/-! ## What one operation does to the counter -/

/-- An operation that cannot fail, if it is performed, leaves the state it built with its response delivered. -/
theorem perform_ok_next {s u t : State} {r : Response} (h : perform s (.ok (u, r)) = .next t) : t = u.deliver r := by
  obtain ⟨-, ⟨u', r', hrun, -, rfl⟩ | ⟨e, hrun, -⟩⟩ := perform_next h
  · cases hrun
    rfl
  · cases hrun

/-- `SEQ_CTR` is kept by an error, so by every operation whose completion keeps it. -/
theorem perform_keeps_seqCtr {s t : State} {run : Except Stop (State × Response)}
    (hrun : ∀ u r, run = .ok (u, r) → u.seqCtr = s.seqCtr) (h : perform s run = .next t) : t.seqCtr = s.seqCtr := by
  obtain ⟨-, ⟨u, r, hok, -, rfl⟩ | ⟨e, -, rfl⟩⟩ := perform_next h
  · simpa using hrun u r hok
  · simp

/-- `SEQ_NEXT` and `PKT_NEW` hand out the counter's next value, which the counter then holds
(spec/41_sequence_packet.md R140, R143). -/
theorem exec_of_allocates {i : Instr} {s t : State} (hi : allocates i = true) (h : exec i s = .next t) :
    t.seqCtr = s.seqCtr + 1 ∧ t.rsp.bind handedOut = some t.seqCtr := by
  cases i with
  | seqNext | pktNew =>
    cases perform_ok_next h
    exact ⟨rfl, rfl⟩
  | _ => cases hi

/-- No other operation writes `SEQ_CTR` (spec/20_memory.md R59). -/
theorem exec_of_not_allocates {i : Instr} {s t : State} (hi : allocates i = false) (h : exec i s = .next t) :
    t.seqCtr = s.seqCtr := by
  cases i with
  | seqNext | pktNew => cases hi
  | unescape | decode =>
    refine perform_keeps_seqCtr (fun u r hrun => ?_) h
    split at hrun <;> cases hrun
    rfl
  | _ =>
    cases perform_ok_next h
    rfl

/-! ## What one request of a sequence does -/

/-- A performed request allocates the next number, or it does not allocate (an illegal command word is answered with an
error) and leaves the counter. -/
theorem performRequest_seqCtr {s t : State} {id : Nat} {r : Request} (h : performRequest s id r = .next t) :
    (∃ i, decode r.cmd = .ok i ∧ allocates i = true ∧
      t.seqCtr = s.seqCtr + 1 ∧ t.rsp.bind handedOut = some t.seqCtr) ∨
    ((∀ i, decode r.cmd = .ok i → allocates i = false) ∧ t.seqCtr = s.seqCtr) := by
  cases hdec : decode r.cmd with
  | error e =>
    rw [performRequest_illegal hdec] at h
    cases h
    refine .inr ⟨fun i hi => ?_, ?_⟩
    · cases hi
    · simp
  | ok i =>
    rw [performRequest_legal hdec] at h
    cases halloc : allocates i with
    | true => exact .inl ⟨i, rfl, halloc, exec_of_allocates (s := s.accept id r) halloc h⟩
    | false =>
      refine .inr ⟨fun j hj => ?_, exec_of_not_allocates (s := s.accept id r) halloc h⟩
      cases hj
      exact halloc

/-- If a whole sequence of requests is performed, its first one either puts the counter's next value in front of what the
rest hands out, or leaves both the counter and the numbers as they are. -/
theorem performAll_cons {r : Request} {rs : List Request} {s u : State} {ws : List Byte}
    (h : performAll (r :: rs) s = some (u, ws)) :
    ∃ t vs, performAll rs t = some (u, vs) ∧
      ((t.seqCtr = s.seqCtr + 1 ∧ ws = (s.seqCtr + 1) :: vs) ∨ (t.seqCtr = s.seqCtr ∧ ws = vs)) := by
  cases hreq : performRequest s r.id r with
  | fault f => simp [performAll, hreq] at h
  | refused x => simp [performAll, hreq] at h
  | next t =>
    cases hrest : performAll rs t with
    | none => simp [performAll, hreq, hrest] at h
    | some w =>
      obtain ⟨u', vs⟩ := w
      simp only [performAll, hreq, hrest] at h
      obtain ⟨i, hdec, halloc, hctr, hhanded⟩ | ⟨hnot, hctr⟩ := performRequest_seqCtr hreq
      · simp only [hdec, hhanded, halloc, if_true] at h
        cases h
        exact ⟨t, vs, hrest, .inl ⟨hctr, by rw [hctr]⟩⟩
      · obtain ⟨rfl, rfl⟩ : u' = u ∧ vs = ws := by
          split at h
          next i v hdec _ => simpa [hnot i hdec] using h
          next => simpa using h
        exact ⟨t, vs, hrest, .inr ⟨hctr, rfl⟩⟩

/-! ## The numbers handed out -/

/-- `c+1, c+2, ..., c+n` modulo 256 (spec/41_sequence_packet.md R142). -/
def numbersAfter (c : Byte) (n : Nat) : List Byte := (List.range n).map fun k => c + BitVec.ofNat 8 (k + 1)

theorem add_one_add_ofNat (c : Byte) (n : Nat) : c + 1 + BitVec.ofNat 8 n = c + BitVec.ofNat 8 (n + 1) := by
  rw [BitVec.add_assoc, Nat.add_comm n, BitVec.ofNat_add]
  rfl

theorem numbersAfter_succ (c : Byte) (n : Nat) : numbersAfter c (n + 1) = (c + 1) :: numbersAfter (c + 1) n := by
  simp only [numbersAfter, List.range_succ_eq_map, List.map_cons, List.map_map, Function.comp_def, add_one_add_ofNat]
  rfl

theorem numbersAfter_getElem? {c : Byte} {n k : Nat} (h : k < n) :
    (numbersAfter c n)[k]? = some (c + BitVec.ofNat 8 (k + 1)) := by
  simp [numbersAfter, h]

/-- Fewer than 256 allocations apart, two numbers differ: their distance is not 0 modulo 256. -/
theorem numbersAfter_getElem?_ne {c : Byte} {n i j : Nat} (hij : i < j) (hj : j < n) (hnear : j < i + 256) :
    (numbersAfter c n)[i]? ≠ (numbersAfter c n)[j]? := by
  rw [numbersAfter_getElem? (hij.trans hj), numbersAfter_getElem? hj]
  intro heq
  have hcancel : BitVec.ofNat 8 (i + 1) = BitVec.ofNat 8 (j + 1) := (BitVec.add_right_inj c).1 (Option.some.inj heq)
  have hmod : (i + 1) % 256 = (j + 1) % 256 := by simpa using congrArg BitVec.toNat hcancel
  omega

/-- R142 along a whole sequence: the numbers handed out are the counter's next ones, and the counter ends at the last. -/
theorem performAll_seqCtr {rs : List Request} {s u : State} {vs : List Byte} (h : performAll rs s = some (u, vs)) :
    vs = numbersAfter s.seqCtr vs.length ∧ u.seqCtr = s.seqCtr + BitVec.ofNat 8 vs.length := by
  induction rs generalizing s vs with
  | nil =>
    cases h
    simp [numbersAfter]
  | cons r rs ih =>
    obtain ⟨t, ws, hrest, ⟨hctr, rfl⟩ | ⟨hctr, rfl⟩⟩ := performAll_cons h
    · obtain ⟨hws, hu⟩ := ih hrest
      rw [hctr] at hws hu
      rw [List.length_cons, numbersAfter_succ, ← hws, ← add_one_add_ofNat]
      exact ⟨rfl, hu⟩
    · exact hctr ▸ ih hrest

/-- Settles O39, by induction on the requests performed; near numbers differ as elements of `numbersAfter`. -/
theorem sequenceNumbersAreConsecutive : Obligations.SequenceNumbersAreConsecutive := by
  intro rs s t vs h
  obtain ⟨hvs, hctr⟩ := performAll_seqCtr h
  refine ⟨hvs, hctr, fun i j hij hj hnear => ?_⟩
  rw [hvs]
  exact numbersAfter_getElem?_ne hij hj hnear

/-! ## Address attachment -/

theorem flagsUnion_right_idem (a b : Byte) : flagsUnion (flagsUnion a b) b = flagsUnion a b := by
  simp [flagsUnion, BitVec.or_assoc]

theorem flagsUnion_right_comm (a b c : Byte) : flagsUnion (flagsUnion a b) c = flagsUnion (flagsUnion a c) b := by
  simp only [flagsUnion, BitVec.or_assoc, BitVec.or_comm b c]

/-- The later of two addresses replaces the earlier, and the presence flag is set once (spec/41_sequence_packet.md R144,
R145). -/
theorem withSource_withSource (p : Packet) (u v : Byte) : withSource (withSource p u) v = withSource p v := by
  simp [withSource, flagsUnion_right_idem]

theorem withTarget_withTarget (p : Packet) (u v : Byte) : withTarget (withTarget p u) v = withTarget p v := by
  simp [withTarget, flagsUnion_right_idem]

/-- The two attachments write different fields, and the flags they set are joined in either order. -/
theorem withTarget_withSource (p : Packet) (u v : Byte) :
    withTarget (withSource p u) v = withSource (withTarget p v) u := by
  simp only [withTarget, withSource, flagsUnion_right_comm p.flags]

/-- Settles O28: attaching once more is the case of two equal addresses. -/
theorem attachmentLaws : Obligations.AttachmentLaws := fun p u v =>
  ⟨withSource_withSource p u v, withTarget_withTarget p u v, withTarget_withSource p u v, withSource_withSource p u u,
    withTarget_withTarget p u u⟩

end Sys2Proof.Machine
end

section
/-! PROOFS. The laws of the Escaper (spec/42_escaper.md): what an escaped sequence holds, unescaping as the inverse of
escaping, and the lengths of both. -/

namespace Sys2Proof.Machine

open Sys2Proof.Claims

/-! ## Markers and escape codes -/

theorem reserved_eq_false_iff {P : Params} {b : Byte} :
    P.reserved b = false ↔ b ≠ P.startMarker ∧ b ≠ P.endMarker ∧ b ≠ P.escMarker := by
  simp [Params.reserved, and_assoc]

theorem not_raw_of_not_reserved {P : Params} {b : Byte} (hb : P.reserved b = false) :
    b ≠ P.startMarker ∧ b ≠ P.endMarker := by
  obtain ⟨hstart, hend, -⟩ := reserved_eq_false_iff.1 hb
  exact ⟨hstart, hend⟩

theorem ne_escMarker_of_not_reserved {P : Params} {b : Byte} (hb : P.reserved b = false) : b ≠ P.escMarker := by
  obtain ⟨-, -, hesc⟩ := reserved_eq_false_iff.1 hb
  exact hesc

theorem markers_distinct {P : Params} (hP : P.wellFormed = true) :
    P.startMarker ≠ P.endMarker ∧ P.startMarker ≠ P.escMarker ∧ P.endMarker ≠ P.escMarker := by
  simp only [Params.wellFormed, Params.markersDistinct, Bool.and_eq_true, bne_iff_ne] at hP
  obtain ⟨⟨⟨⟨⟨⟨hse, hsx⟩, hex⟩, -⟩, -⟩, -⟩, -⟩ := hP
  exact ⟨hse, hsx, hex⟩

theorem codes_distinct {P : Params} (hP : P.wellFormed = true) :
    P.escCodeStart ≠ P.escCodeEnd ∧ P.escCodeStart ≠ P.escCodeEsc ∧ P.escCodeEnd ≠ P.escCodeEsc := by
  simp only [Params.wellFormed, Params.codesDistinct, Bool.and_eq_true, bne_iff_ne] at hP
  obtain ⟨⟨⟨⟨-, ⟨hse, hsx⟩, hex⟩, -⟩, -⟩, -⟩ := hP
  exact ⟨hse, hsx, hex⟩

/-- Only the three escape codes stand for a marker. -/
theorem eq_code_of_codeMarker {P : Params} {c m : Byte} (hm : codeMarker P c = some m) :
    c = P.escCodeStart ∨ c = P.escCodeEnd ∨ c = P.escCodeEsc := by
  unfold codeMarker at hm
  split_ifs at hm with hstart hend hesc
  · exact .inl hstart
  · exact .inr (.inl hend)
  · exact .inr (.inr hesc)

/-- No escape code is a marker (spec/00_scope.md R9). -/
theorem reserved_code {P : Params} (hP : P.wellFormed = true) {c m : Byte} (hm : codeMarker P c = some m) :
    P.reserved c = false := by
  simp only [Params.wellFormed, Params.codesUnreserved, Bool.and_eq_true, Bool.not_eq_true'] at hP
  obtain ⟨⟨⟨-, ⟨hstart, hend⟩, hesc⟩, -⟩, -⟩ := hP
  obtain rfl | rfl | rfl := eq_code_of_codeMarker hm
  · exact hstart
  · exact hend
  · exact hesc

/-! ## The escaped form of one byte -/

theorem escapeByte_of_not_reserved {P : Params} {b : Byte} (hb : P.reserved b = false) : escapeByte P b = [b] := by
  obtain ⟨hstart, hend, hesc⟩ := reserved_eq_false_iff.1 hb
  simp [escapeByte, hstart, hend, hesc]

/-- The table of escape pairs (spec/30_encoding.md R81), read from the code: the markers are distinct. -/
theorem escapeByte_of_codeMarker {P : Params} (hP : P.wellFormed = true) {c m : Byte} (hm : codeMarker P c = some m) :
    escapeByte P m = [P.escMarker, c] := by
  obtain ⟨hse, hsx, hex⟩ := markers_distinct hP
  unfold codeMarker at hm
  split_ifs at hm with hstart hend hesc <;> cases hm
  · simp [escapeByte, hstart]
  · simp [escapeByte, hend, hse.symm]
  · simp [escapeByte, hesc, hsx.symm, hex.symm]

/-- The table of escape pairs, read from the marker: the codes are distinct. -/
theorem exists_codeMarker_of_reserved {P : Params} (hP : P.wellFormed = true) {b : Byte} (hb : P.reserved b = true) :
    ∃ c, codeMarker P c = some b := by
  obtain ⟨hse, hsx, hex⟩ := codes_distinct hP
  simp only [Params.reserved, Bool.or_eq_true, beq_iff_eq] at hb
  obtain (rfl | rfl) | rfl := hb
  · exact ⟨P.escCodeStart, by simp [codeMarker]⟩
  · exact ⟨P.escCodeEnd, by simp [codeMarker, hse.symm]⟩
  · exact ⟨P.escCodeEsc, by simp [codeMarker, hsx.symm, hex.symm]⟩

/-- A byte stands for itself, or it is a marker and a pair stands for it whose code means that marker. -/
theorem escapeByte_cases {P : Params} (hP : P.wellFormed = true) (b : Byte) :
    (P.reserved b = false ∧ escapeByte P b = [b]) ∨
      ∃ c, P.reserved b = true ∧ codeMarker P c = some b ∧ escapeByte P b = [P.escMarker, c] := by
  cases hb : P.reserved b with
  | false => exact .inl ⟨rfl, escapeByte_of_not_reserved hb⟩
  | true =>
    obtain ⟨c, hc⟩ := exists_codeMarker_of_reserved hP hb
    exact .inr ⟨c, rfl, hc, escapeByte_of_codeMarker hP hc⟩

/-! ## What an escaped sequence holds -/

theorem mem_escapeByte_not_raw {P : Params} (hP : P.wellFormed = true) {b x : Byte} (hx : x ∈ escapeByte P b) :
    x ≠ P.startMarker ∧ x ≠ P.endMarker := by
  obtain ⟨hb, heq⟩ | ⟨c, -, hc, heq⟩ := escapeByte_cases hP b <;> rw [heq] at hx
  · obtain rfl := List.mem_singleton.1 hx
    exact not_raw_of_not_reserved hb
  · obtain rfl | rfl := List.mem_pair.1 hx
    · obtain ⟨-, hsx, hex⟩ := markers_distinct hP
      exact ⟨hsx.symm, hex.symm⟩
    · exact not_raw_of_not_reserved (reserved_code hP hc)

theorem mem_escapeBytes_not_raw {P : Params} (hP : P.wellFormed = true) {B : List Byte} {x : Byte}
    (hx : x ∈ escapeBytes P B) : x ≠ P.startMarker ∧ x ≠ P.endMarker := by
  induction B with
  | nil => cases hx
  | cons b B ih =>
    obtain hb | hB := List.mem_append.1 hx
    · exact mem_escapeByte_not_raw hP hb
    · exact ih hB

/-- An escape marker at index `k` is the first byte of a pair: the second byte of a pair is a code, and a byte that stands
for itself is not reserved. -/
theorem code_follows_escMarker {P : Params} (hP : P.wellFormed = true) {B : List Byte} {k : Nat}
    (hk : (escapeBytes P B)[k]? = some P.escMarker) :
    ∃ c, (escapeBytes P B)[k + 1]? = some c ∧ (c = P.escCodeStart ∨ c = P.escCodeEnd ∨ c = P.escCodeEsc) := by
  induction B generalizing k with
  | nil => cases hk
  | cons b B ih =>
    obtain ⟨hb, heq⟩ | ⟨c, -, hc, heq⟩ := escapeByte_cases hP b <;> rw [escapeBytes, heq] at hk ⊢
    · match k with
      | 0 => exact absurd (Option.some.inj hk) (ne_escMarker_of_not_reserved hb)
      | _ + 1 => exact ih hk
    · match k with
      | 0 => exact ⟨c, rfl, eq_code_of_codeMarker hc⟩
      | 1 => exact absurd (Option.some.inj hk) (ne_escMarker_of_not_reserved (reserved_code hP hc))
      | _ + 2 => exact ih hk

/-- Settles O29. -/
theorem escapeOutputHasNoIllegalPattern : Obligations.EscapeOutputHasNoIllegalPattern := fun _P _B hP =>
  ⟨fun _b hb => mem_escapeBytes_not_raw hP hb, fun _k hk => code_follows_escMarker hP hk⟩

/-! ## Unescaping is the inverse of escaping -/

theorem unescapeBytes_escapeBytes {P : Params} (hP : P.wellFormed = true) (B : List Byte) (base : Nat) :
    unescapeBytes P (escapeBytes P B) base = .ok B := by
  induction B generalizing base with
  | nil => rfl
  | cons b B ih =>
    obtain ⟨hb, heq⟩ | ⟨c, -, hc, heq⟩ := escapeByte_cases hP b <;> rw [escapeBytes, heq]
    · obtain ⟨hstart, hend, hesc⟩ := reserved_eq_false_iff.1 hb
      rw [List.singleton_append, unescapeBytes_plain hesc hstart hend, ih]
      rfl
    · rw [List.cons_append, List.singleton_append, unescapeBytes_pair hc, ih]
      rfl

/-- Each turn of the scan that goes on consumed the escaped form of the byte it emitted. -/
theorem escapeBytes_of_unescapeBytes {P : Params} (hP : P.wellFormed = true) {C B : List Byte} {base : Nat}
    (h : unescapeBytes P C base = .ok B) : escapeBytes P B = C := by
  induction C, base using unescapeBytes.induct P generalizing B with
  | case1 base =>
    cases h
    rfl
  | case2 base =>
    rw [unescapeBytes_trailing] at h
    cases h
  | case3 base c D m hm ih =>
    rw [unescapeBytes_pair hm] at h
    obtain ⟨E, hE, rfl⟩ := map_cons_eq_ok.1 h
    rw [escapeBytes, escapeByte_of_codeMarker hP hm, ih hE]
    rfl
  | case4 base c D hc =>
    rw [unescapeBytes_badCode hc] at h
    cases h
  | case5 b C base hb hm =>
    rw [unescapeBytes_raw hb hm] at h
    cases h
  | case6 b C base hb hm ih =>
    obtain ⟨hs, he⟩ := not_or.1 hm
    rw [unescapeBytes_plain hb hs he] at h
    obtain ⟨E, hE, rfl⟩ := map_cons_eq_ok.1 h
    rw [escapeBytes, escapeByte_of_not_reserved (reserved_eq_false_iff.2 ⟨hs, he, hb⟩), ih hE]
    rfl

/-- Settles O30. -/
theorem escapeAndUnescapeAreInverse : Obligations.EscapeAndUnescapeAreInverse := fun _P hP =>
  ⟨unescapeBytes_escapeBytes hP, fun _C _B _base h => escapeBytes_of_unescapeBytes hP h⟩

/-! ## Lengths -/

theorem escapeBytes_length (P : Params) (B : List Byte) :
    (escapeBytes P B).length = B.length + B.countP P.reserved := by
  rw [escapeBytes_eq_escaped, escaped_length]

theorem escapeBytes_length_le (P : Params) (B : List Byte) : (escapeBytes P B).length ≤ 2 * B.length := by
  have hreserved : B.countP P.reserved ≤ B.length := List.countP_le_length
  rw [escapeBytes_length]
  omega

theorem count_escMarker_escapeByte {P : Params} (hP : P.wellFormed = true) (b : Byte) :
    (escapeByte P b).count P.escMarker = if P.reserved b then 1 else 0 := by
  obtain ⟨hb, heq⟩ | ⟨c, hb, hc, heq⟩ := escapeByte_cases hP b <;> rw [heq, hb]
  · simp [ne_escMarker_of_not_reserved hb]
  · simp [ne_escMarker_of_not_reserved (reserved_code hP hc)]

/-- The pairs of an escaped sequence, counted by their escape markers, are the reserved bytes of the plain one. -/
theorem count_escMarker_escapeBytes {P : Params} (hP : P.wellFormed = true) (B : List Byte) :
    (escapeBytes P B).count P.escMarker = B.countP P.reserved := by
  induction B with
  | nil => rfl
  | cons b B ih =>
    rw [escapeBytes, List.count_append, count_escMarker_escapeByte hP, ih, List.countP_cons, Nat.add_comm]

/-- Settles O31: what unescapes is the escaped form of its result, so R176 is R175 read from the other side. -/
theorem escapeLengths : Obligations.EscapeLengths := by
  intro P B
  have hlength := escapeBytes_length P B
  refine ⟨hlength, hlength ▸ Nat.le_add_right .., escapeBytes_length_le P B, fun D base hP h => ?_⟩
  obtain rfl := escapeBytes_of_unescapeBytes hP h
  exact ⟨unescapeBytes_length_le h, escapeBytes_length_le P D, by
    rw [escapeBytes_length, count_escMarker_escapeBytes hP]⟩

end Sys2Proof.Machine
end

section
/-! PROOFS. The laws of the Checksum (spec/43_checksum.md): its arithmetic, that it does not see the order of the bytes, and
what changing one byte, or two, does to it. -/

namespace Sys2Proof.Machine

open Sys2Proof.Claims

/-! ## Arithmetic -/

/-- The reduced sum of any width that keeps the low byte is the 8-bit accumulator. -/
theorem setWidth_ofNat_sum (B : List Byte) {w : Nat} (hw : 8 ≤ w) :
    (BitVec.ofNat w (B.map BitVec.toNat).sum).setWidth 8 = byteSum B := by
  apply BitVec.eq_of_toNat_eq
  rw [BitVec.setWidth_ofNat_of_le hw, BitVec.toNat_ofNat, byteSum_toNat]

theorem checksumBytes_toNat (B : List Byte) : (checksumBytes B).toNat = 255 - (B.map BitVec.toNat).sum % 256 := by
  rw [checksumBytes_eq_not, BitVec.toNat_not, byteSum_toNat]

theorem byteSum_add_checksumBytes (B : List Byte) : byteSum B + checksumBytes B = 0xFF := by
  rw [checksumBytes_eq_not]
  exact BitVec.add_not_self _

/-- The checksum is faithful: it tells apart exactly what the sum tells apart. -/
theorem checksumBytes_inj {B C : List Byte} : checksumBytes B = checksumBytes C ↔ byteSum B = byteSum C :=
  BitVec.xor_right_inj 0xFF

theorem checksumBytes_append_self (B : List Byte) : checksumBytes (B ++ [checksumBytes B]) = 0x00 := by
  have hsum : byteSum (B ++ [checksumBytes B]) = 0xFF := by
    simpa using byteSum_add_checksumBytes B
  rw [checksumBytes, hsum]
  exact BitVec.xor_self

/-! ## Order -/

theorem byteSum_perm {B C : List Byte} (h : B.Perm C) : byteSum B = byteSum C := by
  apply BitVec.eq_of_toNat_eq
  rw [byteSum_toNat, byteSum_toNat, (h.map BitVec.toNat).sum_eq]

/-- Settles O32. -/
theorem checksumArithmetic : Obligations.ChecksumArithmetic := by
  refine ⟨fun B => ⟨fun w hw => ?_, checksumBytes_toNat B, ?_, checksumBytes_append_self B⟩,
    fun B C h => checksumBytes_inj.2 (byteSum_perm h)⟩
  · rw [setWidth_ofNat_sum B hw, checksumBytes]
  · have hc := checksumBytes_toNat B
    omega

/-! ## One flipped bit -/

theorem xor_twoPow_of_clear {w : Nat} {b : BitVec w} {k : Nat} (h : b.getLsbD k = false) :
    b ^^^ BitVec.twoPow w k = b + BitVec.twoPow w k := by
  have hand : b &&& BitVec.twoPow w k = 0#w := by simp [BitVec.and_twoPow, h]
  rw [BitVec.add_eq_or_of_and_eq_zero _ _ hand]
  ext i hi
  have hbit : (b[i] && (BitVec.twoPow w k)[i]) = false := by simpa using congrArg (·[i]) hand
  rw [BitVec.getElem_xor, BitVec.getElem_or]
  grind

/-- A set bit is clear once it is flipped, and flipping it back adds its weight. -/
theorem xor_twoPow_of_set {w : Nat} {b : BitVec w} {k : Nat} (h : b.getLsbD k = true) :
    b ^^^ BitVec.twoPow w k = b - BitVec.twoPow w k := by
  have hclear : (b ^^^ BitVec.twoPow w k).getLsbD k = false := by
    simp [h, BitVec.lt_of_getLsbD h]
  rw [BitVec.eq_sub_iff_add_eq, ← xor_twoPow_of_clear hclear, BitVec.xor_assoc, BitVec.xor_self, BitVec.xor_zero]

theorem twoPow_eq_ofNat (w k : Nat) : BitVec.twoPow w k = BitVec.ofNat w (2 ^ k) := by
  apply BitVec.eq_of_toNat_eq
  rw [BitVec.toNat_twoPow, BitVec.toNat_ofNat]

theorem ofNat_two_pow_ne_zero {w k : Nat} (hk : k < w) : BitVec.ofNat w (2 ^ k) ≠ 0#w := fun h => by
  have hbit : (BitVec.twoPow w k).getLsbD k = (0#w).getLsbD k := by rw [twoPow_eq_ofNat, h]
  simp [hk] at hbit

/-- The byte that changes can be counted last. -/
theorem byteSum_middle (B : List Byte) (b : Byte) (C : List Byte) :
    byteSum (B ++ b :: C) = byteSum (B ++ C) + b := by
  rw [byteSum_perm List.perm_middle, byteSum_cons, BitVec.add_comm]

theorem byteSum_flipBit {B : List Byte} {k : Nat} (hk : k < B.length) (bit : Nat) :
    byteSum (flipBit B k bit) = byteSum B + BitVec.ofNat 8 (2 ^ bit) ∨
      byteSum (flipBit B k bit) = byteSum B - BitVec.ofNat 8 (2 ^ bit) := by
  obtain ⟨C, b, D, rfl, -, hflip⟩ := List.exists_of_modify (fun b => b ^^^ (1#8 <<< bit)) hk
  rw [flipBit, hflip, byteSum_middle, byteSum_middle, ← BitVec.twoPow_eq, ← twoPow_eq_ofNat]
  cases hb : b.getLsbD bit with
  | false => exact .inl (by rw [xor_twoPow_of_clear hb, BitVec.add_assoc])
  | true => exact .inr (by rw [xor_twoPow_of_set hb, add_sub_assoc])

theorem checksumBytes_flipBit_ne {B : List Byte} {k bit : Nat} (hk : k < B.length) (hbit : bit < 8) :
    checksumBytes (flipBit B k bit) ≠ checksumBytes B := by
  rw [Ne, checksumBytes_inj]
  intro heq
  have hweight := ofNat_two_pow_ne_zero hbit
  obtain hadd | hsub := byteSum_flipBit hk bit
  · exact hweight (left_eq_add.1 (heq.symm.trans hadd))
  · exact hweight (sub_eq_self.1 (hsub.symm.trans heq))

/-! ## Two changed bytes -/

/-- What one byte gains and another loses cancels in the sum. -/
theorem byteSum_transfer (B C D : List Byte) (b c d : Byte) :
    byteSum (B ++ (b + d) :: (C ++ (c - d) :: D)) = byteSum (B ++ b :: (C ++ c :: D)) := by
  simp only [byteSum_append, byteSum_cons]
  ring

/-- Settles O33. -/
theorem checksumDetectsASingleBit : Obligations.ChecksumDetectsASingleBit :=
  ⟨fun _B _k bit hk hbit => ⟨byteSum_flipBit hk bit, checksumBytes_flipBit_ne hk hbit⟩,
    fun B C D b c => checksumBytes_inj.2 (byteSum_transfer B C D b c 1)⟩

end Sys2Proof.Machine
end

section
/-! PROOFS. The Decoder (spec/45_decoder.md): what a `DECODE` has read when it comes to each state, and what it answers
for every buffer. The case splits on a flag bit name it by `getLsbD`, so `simp` is told to leave that form. -/

namespace Sys2Proof.Machine

open Sys2Proof.Claims

/-! ## The header -/

theorem headerLength_eq (flags : Byte) : headerLength flags = headerLen flags := by
  unfold headerLength headerCodes headerLen flagCount
  rw [hasFlag_hasTarget, hasFlag_hasSource, hasFlag_isResponse]
  cases flags.getLsbD 4 <;> cases flags.getLsbD 5 <;> cases flags.getLsbD 0 <;> rfl

@[simp] theorem presentByte_true (v : Byte) : presentByte true v = [v] := rfl
@[simp] theorem presentByte_false (v : Byte) : presentByte false v = [] := rfl

theorem headerCodes_length (flags : Byte) : (headerCodes flags).length = headerLength flags := rfl

/-- A header begins with its flags, and the length of the rest is what they say. -/
theorem exists_headerOf_eq_cons (p : Packet) :
    ∃ H, headerOf p = p.flags :: H ∧ H.length + 2 = headerLength p.flags := by
  refine ⟨_, rfl, ?_⟩
  simpa [headerOf, headerLength_eq] using headerOf_length p

/-- A truncated buffer has no room for its header and the suffix. -/
theorem length_of_truncatedAt {P : Params} {flags : Byte} {G : List Byte} {code : BitVec 4}
    (h : truncatedAt P (P.startMarker :: flags :: G) = some code) : G.length < headerLength flags := by
  simp only [truncatedAt, if_true] at h
  have hlt := (List.getElem?_eq_some_iff.1 h).1
  simpa [headerCodes_length] using hlt

/-! ## What a `DECODE` has read -/

/-- The address fields in the decoder's registers that the flags say are there. -/
def addressBytes (r : DecRegs) : List Byte :=
  presentByte (r.f.getLsbD 4) r.tgt ++ presentByte (r.f.getLsbD 5) r.src

/-- What a `DECODE` has read of its buffer when it comes to `DEC_STATE`, rebuilt from its registers. -/
def consumed (P : Params) (r : DecRegs) : List Byte :=
  match r.state with
  | .start | .idle => []
  | .flags => [P.startMarker]
  | .target => [P.startMarker, r.f]
  | .source => P.startMarker :: r.f :: presentByte (r.f.getLsbD 4) r.tgt
  | .device => P.startMarker :: r.f :: addressBytes r
  | .command => P.startMarker :: r.f :: (addressBytes r ++ [r.dev])
  | .seqNo => P.startMarker :: r.f :: (addressBytes r ++ [r.dev, r.cmd])
  | .err => P.startMarker :: r.f :: (addressBytes r ++ [r.dev, r.cmd, r.seq])
  | .data => P.startMarker :: headerOf (decPacket r)
  | .checksum => P.startMarker :: bodyOf P (decPacket r)
  | .endState => P.startMarker :: (bodyOf P (decPacket r) ++ [checksumBytes (bodyOf P (decPacket r))])
  | .validated => encodeFrame P (decPacket r)

/-- A `DECODE` is in progress, and a state for an optional field is entered only when the flags say the field is there
(spec/45_decoder.md R221). -/
def legalEntry (r : DecRegs) : Bool :=
  match r.state with
  | .target => r.f.getLsbD 4
  | .source => r.f.getLsbD 5
  | .err => r.f.getLsbD 0
  | .idle => false
  | .start | .flags | .device | .command | .seqNo | .data | .checksum | .endState | .validated => true

/-- What `Data` has settled about the bytes still ahead: they are the suffix (spec/45_decoder.md R231 to R233). -/
def SuffixAhead (r : DecRegs) (rest : List Byte) : Prop :=
  match r.state with
  | .checksum => r.dend = r.pos ∧ rest.length = 2
  | .endState => rest.length = 1
  | .validated => rest = []
  | .start | .flags | .target | .source | .device | .command | .seqNo | .err | .data | .idle => True

/-- A `DECODE` of `inp` with these registers has `rest` still to read. -/
structure Scanning (P : Params) (inp : List Byte) (r : DecRegs) (rest : List Byte) : Prop where
  split : inp = consumed P r ++ rest
  pos : r.pos = (consumed P r).length
  len : r.len = inp.length
  entry : legalEntry r = true
  suffix : SuffixAhead r rest

theorem presentOrZero_idem (flags : Byte) (f : Flag) (v : Byte) :
    presentOrZero flags f (presentOrZero flags f v) = presentOrZero flags f v := by
  unfold presentOrZero
  split_ifs <;> rfl

theorem presentByte_presentOrZero (flags : Byte) (f : Flag) (v : Byte) :
    presentByte (hasFlag flags f) (presentOrZero flags f v) = presentByte (hasFlag flags f) v := by
  unfold presentByte presentOrZero
  split_ifs <;> rfl

theorem canonical_eq_canon (p : Packet) : canonical p = canon p := rfl

/-- The packet delivered is a canonical record (spec/10_state.md R26). -/
theorem canonical_decPacket (r : DecRegs) : canonical (decPacket r) = decPacket r := by
  simp only [canonical_eq_canon, canon, decPacket, presentOrZero_idem]

theorem headerOf_decPacket (r : DecRegs) :
    headerOf (decPacket r) =
      r.f :: (addressBytes r ++ [r.dev, r.cmd, r.seq] ++ presentByte (r.f.getLsbD 0) r.err) := by
  simp only [headerOf, decPacket, addressBytes, ← hasFlag_hasTarget, ← hasFlag_hasSource, ← hasFlag_isResponse,
    presentByte_presentOrZero]

/-- Storing a header byte is reading one byte further. -/
theorem consumed_storeField {r : DecRegs} (P : Params) (hS : readsField r.state = true) (hr : legalEntry r = true)
    (v : Byte) (n : Nat) : consumed P (storeField r.state v { r with pos := n }) = consumed P r ++ [v] := by
  cases hs : r.state with
  | flags =>
    cases h4 : v.getLsbD 4 <;> cases h5 : v.getLsbD 5 <;>
      simp [-BitVec.getLsbD_eq_getElem, consumed, storeField, hs, h4, h5, addressBytes]
  | target =>
    have h4 : r.f.getLsbD 4 = true := by simpa only [legalEntry, hs] using hr
    cases h5 : r.f.getLsbD 5 <;> simp [-BitVec.getLsbD_eq_getElem, consumed, storeField, hs, h4, h5, addressBytes]
  | source =>
    have h5 : r.f.getLsbD 5 = true := by simpa only [legalEntry, hs] using hr
    simp [-BitVec.getLsbD_eq_getElem, consumed, storeField, hs, h5, addressBytes]
  | device | command => simp [consumed, storeField, hs, addressBytes]
  | seqNo =>
    cases h0 : r.f.getLsbD 0 <;>
      simp [-BitVec.getLsbD_eq_getElem, consumed, storeField, hs, h0, headerOf_decPacket, addressBytes]
  | err =>
    have h0 : r.f.getLsbD 0 = true := by simpa only [legalEntry, hs] using hr
    simp [-BitVec.getLsbD_eq_getElem, consumed, storeField, hs, h0, headerOf_decPacket, addressBytes]
  | start | data | checksum | endState | validated | idle => simp [hs, readsField] at hS

/-- A state that reads a field is followed by a later one, and by one for an optional field only if it is there. -/
theorem storeField_enters {r : DecRegs} (hS : readsField r.state = true) (v : Byte) (n : Nat) (rest : List Byte) :
    legalEntry (storeField r.state v { r with pos := n }) = true ∧
    SuffixAhead (storeField r.state v { r with pos := n }) rest ∧
    (decStateCode r.state).toNat < (decStateCode (storeField r.state v { r with pos := n }).state).toNat := by
  cases hs : r.state with
  | flags =>
    cases h4 : v.getLsbD 4 <;> cases h5 : v.getLsbD 5 <;>
      simp [-BitVec.getLsbD_eq_getElem, legalEntry, SuffixAhead, storeField, h4, h5, decStateCode]
  | target =>
    cases h5 : r.f.getLsbD 5 <;>
      simp [-BitVec.getLsbD_eq_getElem, legalEntry, SuffixAhead, storeField, h5, decStateCode]
  | seqNo =>
    cases h0 : r.f.getLsbD 0 <;>
      simp [-BitVec.getLsbD_eq_getElem, legalEntry, SuffixAhead, storeField, h0, decStateCode]
  | source | device | command | err => simp [legalEntry, SuffixAhead, storeField, decStateCode]
  | start | data | checksum | endState | validated | idle => simp [hs, readsField] at hS

/-- A buffer that ends where a header state reads is truncated there (spec/45_decoder.md R222). -/
theorem truncatedAt_consumed {r : DecRegs} (P : Params) (hS : (decStateCode r.state).toNat ≤ 7)
    (hr : legalEntry r = true) :
    truncatedAt P (consumed P r) = some (decStateCode r.state) := by
  cases hs : r.state with
  | start | flags => simp [truncatedAt, consumed, hs, decStateCode]
  | target =>
    have h4 : r.f.getLsbD 4 = true := by simpa only [legalEntry, hs] using hr
    simp [-BitVec.getLsbD_eq_getElem, truncatedAt, consumed, hs, decStateCode, headerCodes, h4]
  | source =>
    have h5 : r.f.getLsbD 5 = true := by simpa only [legalEntry, hs] using hr
    cases h4 : r.f.getLsbD 4 <;>
      simp [-BitVec.getLsbD_eq_getElem, truncatedAt, consumed, hs, decStateCode, headerCodes, h4, h5]
  | device | command | seqNo =>
    cases h4 : r.f.getLsbD 4 <;> cases h5 : r.f.getLsbD 5 <;>
      simp [-BitVec.getLsbD_eq_getElem, truncatedAt, consumed, hs, decStateCode, headerCodes, h4, h5, addressBytes]
  | err =>
    have h0 : r.f.getLsbD 0 = true := by simpa only [legalEntry, hs] using hr
    cases h4 : r.f.getLsbD 4 <;> cases h5 : r.f.getLsbD 5 <;>
      simp [-BitVec.getLsbD_eq_getElem, truncatedAt, consumed, hs, decStateCode, headerCodes, h0, h4, h5, addressBytes]
  | data | checksum | endState | validated | idle => simp [hs, decStateCode] at hS

/-- A buffer with fewer than two bytes after its header is truncated in `Data` (spec/45_decoder.md R231). -/
theorem truncatedAt_header_append (P : Params) (p : Packet) {rest : List Byte} (hrest : rest.length < 2) :
    truncatedAt P (P.startMarker :: headerOf p ++ rest) = some (decStateCode .data) := by
  obtain ⟨H, hH, hlen⟩ := exists_headerOf_eq_cons p
  have hindex : (P.startMarker :: p.flags :: (H ++ rest)).length = (headerCodes p.flags).length + rest.length := by
    rw [headerCodes_length, ← hlen, List.length_cons, List.length_cons, List.length_append]
    omega
  rw [hH, List.cons_append, List.cons_append]
  simp only [truncatedAt, if_true, hindex]
  rw [List.getElem?_append_right (Nat.le_add_right ..), Nat.add_sub_cancel_left]
  match rest, hrest with
  | [], _ => rfl
  | [_], _ => rfl

/-! ## What a `DECODE` answers -/

/-- Why a buffer is no frame, with the error that `DECODE` answers: the checks of spec/45_decoder.md in their order. -/
inductive Rejected (P : Params) : List Byte → CodecError → Prop
  | missingStart {b : Byte} {rest : List Byte} (hb : b ≠ P.startMarker) :
      Rejected P (b :: rest) (.missingStart P.startMarker b)
  | truncated {inp : List Byte} {S : DecState} (h : truncatedAt P inp = some (decStateCode S)) :
      Rejected P inp (.truncatedFrame inp.length S)
  | malformedEscape {inp data : List Byte} {flags c e : Byte} {x : CodecError} (h : Parts P inp flags data c e)
      (hx : unescapeBytes P data (headerLength flags) = .error x) : Rejected P inp x
  | checksumMismatch {body : List Byte} {c e : Byte} (hc : c ≠ checksumBytes body) :
      Rejected P (P.startMarker :: (body ++ [c, e])) (.checksumMismatch (body.length + 1) (checksumBytes body) c)
  | missingEnd {body : List Byte} {e : Byte} (he : e ≠ P.endMarker) :
      Rejected P (P.startMarker :: (body ++ [checksumBytes body, e])) (.missingEnd (body.length + 2) P.endMarker e)

/-- One turn reads on, into a later state, or rejects the buffer. -/
def TurnAnswers (P : Params) (inp : List Byte) (r : DecRegs) : Prop :=
  (∃ r' rest, decStep P inp r = .ok r' ∧ Scanning P inp r' rest ∧
    (decStateCode r.state).toNat < (decStateCode r'.state).toNat) ∨
  ∃ e, decStep P inp r = .error (.error e) ∧ Rejected P inp e

theorem Scanning.getElem?_pos {P : Params} {inp rest : List Byte} {r : DecRegs} (h : Scanning P inp r rest) :
    inp[r.pos]? = rest[0]? := by
  rw [h.split, h.pos, List.getElem?_append_right le_rfl, Nat.sub_self]

theorem Scanning.len_eq {P : Params} {inp rest : List Byte} {r : DecRegs} (h : Scanning P inp r rest) :
    r.len = r.pos + rest.length := by
  rw [h.len, h.pos, ← List.length_append, ← h.split]

theorem slice_append_middle (A B C : List Byte) : slice (A ++ (B ++ C)) A.length (A.length + B.length) = B := by
  simp [slice]

theorem decInit_scanning (P : Params) (inp : List Byte) (r : DecRegs) : Scanning P inp (decInit inp r) inp :=
  ⟨rfl, rfl, rfl, rfl, trivial⟩

section

variable {P : Params} {inp rest : List Byte} {r : DecRegs}

/-- At the end of the buffer, `Start` and the states that read a field reject it as truncated. -/
theorem turnAnswers_header_end (h : Scanning P inp r []) (hS : (decStateCode r.state).toNat ≤ 7) :
    TurnAnswers P inp r := by
  have hend : r.pos = inp.length := by simpa using h.len_eq.symm.trans h.len
  have hstart : r.state = .start → r.pos = 0 := fun hs => by simp [h.pos, consumed, hs]
  refine .inr ⟨_, decStep_header_truncated P inp hstart hS (h.len.trans hend.symm).le, ?_⟩
  rw [hend]
  refine .truncated ?_
  rw [h.split, List.append_nil, truncatedAt_consumed P hS h.entry]

/-- `Start` reads the start marker (spec/45_decoder.md R223). -/
theorem turnAnswers_start (h : Scanning P inp r rest) (hS : r.state = .start) : TurnAnswers P inp r := by
  obtain rfl : inp = rest := by simpa [consumed, hS] using h.split
  cases inp with
  | nil => exact turnAnswers_header_end h (by simp [hS, decStateCode])
  | cons b G =>
    have hstep : decStep P (b :: G) r =
        if b ≠ P.startMarker then .error (.error (.missingStart P.startMarker b))
        else .ok { r with pos := 1, state := .flags } := by
      simp [decStep, decStart, hS, h.len, memRead, bind, Except.bind]
    by_cases hb : b = P.startMarker
    · subst hb
      exact .inl ⟨_, G, hstep.trans (if_neg (not_not.2 rfl)), ⟨rfl, rfl, h.len, rfl, trivial⟩,
        by simp [hS, decStateCode]⟩
    · exact .inr ⟨_, hstep.trans (if_pos hb), .missingStart hb⟩

/-- A header state reads one byte, or the buffer ends there (spec/45_decoder.md R222). -/
theorem turnAnswers_readsField (h : Scanning P inp r rest) (hS : readsField r.state = true) : TurnAnswers P inp r := by
  cases rest with
  | nil => exact turnAnswers_header_end h ((decStateCode_le_seven_iff _).2 (.inr hS))
  | cons v rest =>
    have hread : readHeaderByte inp r.state r = .ok (v, { r with pos := r.pos + 1 }) :=
      readHeaderByte_ok (by rw [h.len_eq]; simp) h.getElem?_pos
    have hconsumed := consumed_storeField P hS h.entry v (r.pos + 1)
    obtain ⟨hentry, hsuffix, hlater⟩ := storeField_enters hS v (r.pos + 1) rest
    refine .inl ⟨_, rest, by rw [decStep_readsField hS, hread]; rfl, ⟨?_, ?_, ?_, hentry, hsuffix⟩, hlater⟩
    · rw [hconsumed, List.append_assoc, List.singleton_append, ← h.split]
    · rw [hconsumed, storeField_pos, List.length_append, List.length_singleton, ← h.pos]
    · rw [storeField_len]
      exact h.len

theorem exists_eq_append_suffix {G : List Byte} (h : 2 ≤ G.length) : ∃ data c e, G = data ++ [c, e] := by
  have hlen : (G.drop (G.length - 2)).length = 2 := by simp; omega
  obtain ⟨c, e, hce⟩ := List.length_eq_two.1 hlen
  exact ⟨_, c, e, by rw [← hce, List.take_append_drop]⟩

theorem parts_of_header (P : Params) (p : Packet) (data : List Byte) (c e : Byte) :
    Parts P (P.startMarker :: headerOf p ++ (data ++ [c, e])) p.flags data c e := by
  obtain ⟨H, hH, hlen⟩ := exists_headerOf_eq_cons p
  exact ⟨H, by simp [hH], hlen⟩

/-- `Data` reads up to the suffix; what unescapes is the escaped form of its result (spec/45_decoder.md R231). -/
theorem turnAnswers_data (hP : P.wellFormed = true) (h : Scanning P inp r rest) (hS : r.state = .data) :
    TurnAnswers P inp r := by
  have hsplit : inp = P.startMarker :: headerOf (decPacket r) ++ rest := by simpa only [consumed, hS] using h.split
  have hpos : r.pos = headerLength r.f := by
    simp only [h.pos, consumed, hS, headerLength_eq, List.length_cons, headerOf_length]
    rfl
  by_cases hrest : rest.length < 2
  · refine .inr ⟨_, decStep_data_truncated P inp hS (by rw [h.len_eq]; omega), ?_⟩
    rw [h.len]
    exact .truncated (hsplit ▸ truncatedAt_header_append P (decPacket r) hrest)
  · obtain ⟨data, c, e, rfl⟩ := exists_eq_append_suffix (not_lt.1 hrest)
    have hlen : r.len = r.pos + data.length + 2 := h.len_eq.trans (by simp; omega)
    have hfit : ¬r.len - r.pos < 2 := by omega
    have hdend : r.len - 2 = r.pos + data.length := by omega
    have hslice : slice inp r.pos (r.len - 2) = data := by
      rw [hdend, h.pos, h.split, slice_append_middle]
    have hstep : decStep P inp r = decData P inp r := by simp only [decStep, hS]
    cases hB : unescapeBytes P data r.pos with
    | error x =>
      refine .inr ⟨x, ?_, .malformedEscape (hsplit ▸ parts_of_header P (decPacket r) data c e) (hpos ▸ hB)⟩
      simp only [hstep, decData, if_neg hfit, hslice, hB]
    | ok B =>
      have hC : escaped P B = data := by rw [← escapeBytes_eq_escaped, escapeBytes_of_unescapeBytes hP hB]
      have hok : decStep P inp r =
          .ok { r with dend := r.len - 2, payload := B, pos := r.len - 2, state := .checksum } := by
        simp only [hstep, decData, if_neg hfit, hslice, hB]
      have hread : consumed P { r with dend := r.len - 2, payload := B, pos := r.len - 2, state := .checksum } =
          consumed P r ++ data := by
        simp only [consumed, hS, ← hC]
        rfl
      refine .inl ⟨_, [c, e], hok, ⟨?_, ?_, h.len, rfl, rfl, rfl⟩, by simp [hS, decStateCode]⟩
      · rw [hread, List.append_assoc, ← h.split]
      · rw [hread, List.length_append, ← h.pos, ← hdend]

/-- `Checksum` compares with the checksum of the body it has read (spec/45_decoder.md R232). -/
theorem turnAnswers_checksum (h : Scanning P inp r rest) (hS : r.state = .checksum) : TurnAnswers P inp r := by
  obtain ⟨hdend, hrest⟩ : r.dend = r.pos ∧ rest.length = 2 := by simpa only [SuffixAhead, hS] using h.suffix
  obtain ⟨c, e, rfl⟩ := List.length_eq_two.1 hrest
  have hsplit : inp = P.startMarker :: (bodyOf P (decPacket r) ++ [c, e]) := by simpa [consumed, hS] using h.split
  have hpos : r.pos = (bodyOf P (decPacket r)).length + 1 := by simp [h.pos, consumed, hS]
  have hslice : slice inp 1 r.dend = bodyOf P (decPacket r) := by
    rw [hdend, hpos, hsplit, Nat.add_comm]
    exact slice_append_middle [P.startMarker] _ _
  have hstep : decStep P inp r =
      if c ≠ checksumBytes (bodyOf P (decPacket r)) then
        .error (.error (.checksumMismatch r.pos (checksumBytes (bodyOf P (decPacket r))) c))
      else .ok { r with pos := r.pos + 1, state := .endState } := by
    simp [decStep, hS, decChecksum, hslice, memRead, h.getElem?_pos, bind, Except.bind]
  by_cases hc : c = checksumBytes (bodyOf P (decPacket r))
  · refine .inl ⟨_, [e], hstep.trans (if_neg (not_not.2 hc)), ⟨?_, ?_, h.len, rfl, rfl⟩, by simp [hS, decStateCode]⟩
    · rw [hsplit, hc]
      simp [consumed, decPacket]
    · simp [hpos, consumed, decPacket]
  · refine .inr ⟨_, hstep.trans (if_pos hc), ?_⟩
    rw [hpos, hsplit]
    exact .checksumMismatch hc

/-- `End` reads the last byte, so no bytes trail (spec/45_decoder.md R233). -/
theorem turnAnswers_end (h : Scanning P inp r rest) (hS : r.state = .endState) : TurnAnswers P inp r := by
  have hrest : rest.length = 1 := by simpa only [SuffixAhead, hS] using h.suffix
  obtain ⟨e, rfl⟩ := List.length_eq_one_iff.1 hrest
  have hsplit : inp =
      P.startMarker :: (bodyOf P (decPacket r) ++ [checksumBytes (bodyOf P (decPacket r)), e]) := by
    simpa [consumed, hS] using h.split
  have hpos : r.pos = (bodyOf P (decPacket r)).length + 2 := by simp [h.pos, consumed, hS]
  have hstep : decStep P inp r =
      if e ≠ P.endMarker then .error (.error (.missingEnd r.pos P.endMarker e))
      else .ok { r with pos := r.pos + 1, state := .validated } := by
    simp [decStep, hS, decEnd, memRead, h.getElem?_pos, h.len_eq, bind, Except.bind]
  by_cases he : e = P.endMarker
  · refine .inl ⟨_, [], hstep.trans (if_neg (not_not.2 he)), ⟨?_, ?_, h.len, rfl, rfl⟩, by simp [hS, decStateCode]⟩
    · rw [hsplit, he]
      simp [consumed, encodeFrame_eq, decPacket]
    · simp [hpos, consumed, encodeFrame_eq, decPacket]
  · refine .inr ⟨_, hstep.trans (if_pos he), ?_⟩
    rw [hpos, hsplit]
    exact .missingEnd he

theorem Scanning.turnAnswers (hP : P.wellFormed = true) (h : Scanning P inp r rest) (hv : r.state ≠ .validated) :
    TurnAnswers P inp r := by
  cases hS : r.state with
  | start => exact turnAnswers_start h hS
  | flags | target | source | device | command | seqNo | err => exact turnAnswers_readsField h (by rw [hS]; rfl)
  | data => exact turnAnswers_data hP h hS
  | checksum => exact turnAnswers_checksum h hS
  | endState => exact turnAnswers_end h hS
  | validated => exact absurd hS hv
  | idle => simpa [legalEntry, hS] using h.entry

theorem eleven_le_decStateCode {S : DecState} (h : 11 ≤ (decStateCode S).toNat) : S = .validated ∨ S = .idle := by
  revert h
  cases S <;> decide

theorem decLoop_validated (P : Params) (inp : List Byte) (fuel : Nat) (hv : r.state = .validated) :
    decLoop P inp fuel r = .ok r := by
  cases fuel <;> simp [decLoop, hv]

theorem Scanning.eq_encodeFrame (h : Scanning P inp r rest) (hv : r.state = .validated) :
    inp = encodeFrame P (decPacket r) := by
  obtain rfl : rest = [] := by simpa only [SuffixAhead, hv] using h.suffix
  simpa [consumed, hv] using h.split

/-- The loop ends within its bound: each turn comes to a later state, and there are eleven before `Validated`
(spec/45_decoder.md R235). -/
theorem decLoop_answers (hP : P.wellFormed = true) {fuel : Nat} (hfuel : 11 ≤ fuel + (decStateCode r.state).toNat)
    (h : Scanning P inp r rest) :
    (∃ r', decLoop P inp fuel r = .ok r' ∧ inp = encodeFrame P (decPacket r')) ∨
    ∃ e, decLoop P inp fuel r = .error (.error e) ∧ Rejected P inp e := by
  induction fuel generalizing r rest with
  | zero =>
    obtain hv | hidle := eleven_le_decStateCode (hfuel.trans (Nat.zero_add _).le)
    · exact .inl ⟨r, decLoop_validated P inp 0 hv, h.eq_encodeFrame hv⟩
    · simpa [legalEntry, hidle] using h.entry
  | succ fuel ih =>
    by_cases hv : r.state = .validated
    · exact .inl ⟨r, decLoop_validated P inp _ hv, h.eq_encodeFrame hv⟩
    · have hloop : decLoop P inp (fuel + 1) r = decStep P inp r >>= decLoop P inp fuel := if_neg hv
      obtain ⟨r', rest', hstep, hnext, hlater⟩ | ⟨e, hstep, hrej⟩ := h.turnAnswers hP hv <;> rw [hloop, hstep]
      · exact ih (by omega) hnext
      · exact .inr ⟨e, rfl, hrej⟩

end

/-- `DECODE` answers a canonical record whose frame the buffer is, or rejects the buffer. -/
theorem decRun_answers {P : Params} (hP : P.wellFormed = true) (inp : List Byte) (r : DecRegs) :
    (∃ p, decRun P inp r = .ok p ∧ canonical p = p ∧ inp = encodeFrame P p) ∨
    ∃ e, decRun P inp r = .error (.error e) ∧ Rejected P inp e := by
  have hfuel : 11 ≤ decMaxSteps + (decStateCode (decInit inp r).state).toNat := Nat.le_succ 11
  obtain ⟨r', hloop, hframe⟩ | ⟨e, hloop, hrej⟩ := decLoop_answers hP hfuel (decInit_scanning P inp r)
  · exact .inl ⟨decPacket r', by rw [decRun, hloop]; rfl, canonical_decPacket r', hframe⟩
  · exact .inr ⟨e, by rw [decRun, hloop]; rfl, hrej⟩

theorem exec_decode_of_ok {s : State} {p : Packet} (h : decRun s.params s.req.buf s.dec = .ok p) :
    exec .decode s = perform s (.ok (s.loseDecoder, { status := .ok, pkt := some p })) := by
  change execDecode s = _
  rw [execDecode, h]

theorem exec_decode_of_error {s : State} {x : Stop} (h : decRun s.params s.req.buf s.dec = .error x) :
    exec .decode s = perform s (.error x) := by
  change execDecode s = _
  rw [execDecode, h]

/-- `decRun_answers` for the operation: a record is never too long to deliver. -/
theorem exec_decode_answers {s : State} (hP : s.params.wellFormed = true) (hs : OperandsWithin s) :
    (∃ p, exec .decode s = .next (s.loseDecoder.deliver { status := .ok, pkt := some p }) ∧
      canonical p = p ∧ s.req.buf = encodeFrame s.params p) ∨
    ∃ e, exec .decode s = .next (s.raiseError e) ∧ Rejected s.params s.req.buf e := by
  have hfit := operandsWithin_iff.1 hs
  obtain ⟨hbuf, -⟩ := operandsFit_iff.1 hfit
  obtain ⟨p, hrun, hcanon, hframe⟩ | ⟨e, hrun, hrej⟩ := decRun_answers hP s.req.buf s.dec
  · refine .inl ⟨p, ?_, hcanon, hframe⟩
    have hout : outputFits s.params { status := .ok, pkt := some p } = true := by
      simpa [outputFits] using fits_mono (decRun_payload_length_le hrun) hbuf
    exact (exec_decode_of_ok hrun).trans (perform_ok hfit hout)
  · exact .inr ⟨e, (exec_decode_of_error hrun).trans (perform_error hfit), hrej⟩

end Sys2Proof.Machine
end

section
/-! PROOFS. Which buffers a `DECODE` accepts, and what it makes of a frame with one flipped bit (spec/45_decoder.md
R239, R241). -/

namespace Sys2Proof.Machine

open Sys2Proof.Claims

/-! ## Which buffers are frames -/

section

variable {P : Params}

/-- A buffer whose body is that of a record is long enough for its header. -/
theorem not_truncatedAt_body (p : Packet) (c e : Byte) (code : BitVec 4) :
    truncatedAt P (P.startMarker :: (bodyOf P p ++ [c, e])) ≠ some code := by
  obtain ⟨H, hH, hlen⟩ := exists_headerOf_eq_cons p
  intro h
  rw [bodyOf, hH] at h
  have hshort := length_of_truncatedAt h
  simp at hshort
  omega

/-- The data region of a buffer whose body is that of a record is the escaped payload. -/
theorem data_of_parts_body {p : Packet} {c e flags c' e' : Byte} {data : List Byte}
    (h : Parts P (P.startMarker :: (bodyOf P p ++ [c, e])) flags data c' e') : data = escapeBytes P p.payload := by
  obtain ⟨H, hH, hlen⟩ := exists_headerOf_eq_cons p
  obtain ⟨H', heq, hlen'⟩ := h
  rw [bodyOf, hH] at heq
  simp only [List.cons_append, List.cons.injEq, true_and] at heq
  obtain ⟨rfl, heq⟩ := heq
  obtain ⟨hbody, -⟩ := List.append_inj' heq rfl
  obtain ⟨-, hdata⟩ := List.append_inj hbody (by omega)
  rw [escapeBytes_eq_escaped, hdata]

theorem unescape_data_of_parts_body (hP : P.wellFormed = true) {p : Packet} {c e flags c' e' : Byte} {data : List Byte}
    (h : Parts P (P.startMarker :: (bodyOf P p ++ [c, e])) flags data c' e') (base : Nat) :
    unescapeBytes P data base = .ok p.payload := by
  rw [data_of_parts_body h, unescapeBytes_escapeBytes hP]

theorem body_append_inj {B C : List Byte} {s c e c' e' : Byte} (h : s :: (B ++ [c, e]) = s :: (C ++ [c', e'])) :
    B = C ∧ c = c' ∧ e = e' := by
  obtain ⟨hB, hsuffix⟩ := List.append_inj' (List.cons.inj h).2 rfl
  simpa [hB] using hsuffix

/-- No check of the decoder rejects a frame. -/
theorem not_rejected_encodeFrame (hP : P.wellFormed = true) (p : Packet) (x : CodecError) :
    ¬Rejected P (encodeFrame P p) x := by
  rw [encodeFrame_eq]
  generalize hF : P.startMarker :: (bodyOf P p ++ [checksumBytes (bodyOf P p), P.endMarker]) = F
  intro h
  cases h with
  | missingStart hb => exact hb (List.cons.inj hF).1.symm
  | truncated h => exact not_truncatedAt_body p _ _ _ (hF ▸ h)
  | malformedEscape h hx =>
    rw [← hF] at h
    rw [unescape_data_of_parts_body hP h] at hx
    cases hx
  | checksumMismatch hc =>
    obtain ⟨rfl, rfl, -⟩ := body_append_inj hF
    exact hc rfl
  | missingEnd he =>
    obtain ⟨-, -, rfl⟩ := body_append_inj hF
    exact he rfl

end

theorem errorStatus_ne_ok (e : CodecError) : errorStatus e ≠ .ok := by
  cases e <;> simp [errorStatus]

/-- An `OK` of `DECODE` delivers the canonical record whose frame the buffer is. -/
theorem exec_decode_ok {s t : State} {r : Response} (hP : s.params.wellFormed = true) (hs : OperandsWithin s)
    (ht : exec .decode s = .next t) (hr : t.rsp = some r) (hok : r.status = .ok) :
    ∃ q, r.pkt = some q ∧ canonical q = q ∧ encodeFrame s.params q = s.req.buf := by
  obtain ⟨q, hnext, hcanon, hframe⟩ | ⟨e, hnext, -⟩ := exec_decode_answers hP hs <;> rw [hnext] at ht <;> cases ht
  · cases hr
    exact ⟨q, rfl, hcanon, hframe.symm⟩
  · rw [State.raiseError_rsp] at hr
    cases hr
    exact absurd hok (errorStatus_ne_ok e)

theorem exec_decode_encodeFrame {s : State} {q : Packet} (hP : s.params.wellFormed = true) (hs : OperandsWithin s)
    (hq : s.req.buf = encodeFrame s.params q) :
    ∃ t r, exec .decode s = .next t ∧ t.rsp = some r ∧ r.status = .ok := by
  obtain ⟨p, hnext, -⟩ | ⟨e, -, hrej⟩ := exec_decode_answers hP hs
  · exact ⟨_, _, hnext, rfl, rfl⟩
  · exact absurd (hq ▸ hrej) (not_rejected_encodeFrame hP q e)

/-- Settles O37: what is delivered with `OK` encodes to the buffer, and no frame is rejected. -/
theorem decodeAcceptsExactlyTheFrames : Obligations.DecodeAcceptsExactlyTheFrames := by
  refine fun s hP hs => ⟨⟨?_, ?_⟩, fun t r => exec_decode_ok hP hs⟩
  · rintro ⟨t, r, ht, hr, hok⟩
    obtain ⟨q, -, -, hq⟩ := exec_decode_ok hP hs ht hr hok
    exact ⟨q, hq.symm⟩
  · rintro ⟨q, hq⟩
    exact exec_decode_encodeFrame hP hs hq

/-! ## Where the scan of a data region stops -/

section

variable {P : Params}

theorem map_cons_eq_error {v : Byte} {e : Except CodecError (List Byte)} {x : CodecError} :
    e.map (v :: ·) = .error x ↔ e = .error x := by
  cases e <;> simp [Except.map]

theorem illegalPattern_badCode {c : Byte} (hc : codeMarker P c = none) (D : List Byte) :
    illegalPattern P (P.escMarker :: c :: D) = some (0, some c) := by
  unfold codeMarker at hc
  split_ifs at hc with hstart hend hesc
  simp [illegalPattern, hstart, hend, hesc]

/-- The scan stops at an illegal pattern that stands after escaped bytes (spec/42_escaper.md R172). -/
theorem unescapeBytes_error (hP : P.wellFormed = true) {C : List Byte} {base : Nat} {x : CodecError}
    (h : unescapeBytes P C base = .error x) :
    errorStatus x = .malformedEscape ∧ ∃ B rest y, C = escapeBytes P B ++ rest ∧ illegalPattern P rest = some y := by
  induction C, base using unescapeBytes.induct P with
  | case1 base => cases h
  | case2 base =>
    rw [unescapeBytes_trailing] at h
    cases h
    exact ⟨rfl, [], _, (1, none), rfl, by simp [illegalPattern]⟩
  | case3 base c D m hm ih =>
    rw [unescapeBytes_pair hm, map_cons_eq_error] at h
    obtain ⟨hx, B, rest, y, rfl, hrest⟩ := ih h
    exact ⟨hx, m :: B, rest, y, by rw [escapeBytes, escapeByte_of_codeMarker hP hm]; rfl, hrest⟩
  | case4 base c D hc =>
    rw [unescapeBytes_badCode hc] at h
    cases h
    exact ⟨rfl, [], _, _, rfl, illegalPattern_badCode hc D⟩
  | case5 b C base hb hm =>
    rw [unescapeBytes_raw hb hm] at h
    cases h
    exact ⟨rfl, [], _, (2, some b), rfl, by simp [illegalPattern, hb, hm]⟩
  | case6 b C base hb hm ih =>
    obtain ⟨hs, he⟩ := not_or.1 hm
    rw [unescapeBytes_plain hb hs he, map_cons_eq_error] at h
    obtain ⟨hx, B, rest, y, rfl, hrest⟩ := ih h
    have hplain : escapeByte P b = [b] := escapeByte_of_not_reserved (reserved_eq_false_iff.2 ⟨hs, he, hb⟩)
    exact ⟨hx, b :: B, rest, y, by rw [escapeBytes, hplain]; rfl, hrest⟩

/-! ## One flipped bit in a frame -/

theorem flipBit_cons_succ (b : Byte) (F : List Byte) (k bit : Nat) :
    flipBit (b :: F) (k + 1) bit = b :: flipBit F k bit := List.modify_succ_cons ..

theorem flipBit_append_left {F : List Byte} {k : Nat} (hk : k < F.length) (G : List Byte) (bit : Nat) :
    flipBit (F ++ G) k bit = flipBit F k bit ++ G := by
  induction F generalizing k with
  | nil => cases hk
  | cons b F ih =>
    cases k with
    | zero => rfl
    | succ k =>
      rw [List.cons_append, flipBit_cons_succ, flipBit_cons_succ, ih (Nat.lt_of_succ_lt_succ hk), List.cons_append]

theorem flipBit_length_append (F : List Byte) (c : Byte) (bit : Nat) :
    flipBit (F ++ [c]) F.length bit = F ++ [c ^^^ (1#8 <<< bit)] := by
  induction F with
  | nil => rfl
  | cons b F ih => rw [List.cons_append, List.length_cons, flipBit_cons_succ, ih, List.cons_append]

/-- What stands in a frame between its two markers. -/
def insideOf (P : Params) (p : Packet) : List Byte := bodyOf P p ++ [checksumBytes (bodyOf P p)]

theorem encodeFrame_eq_insideOf (P : Params) (p : Packet) :
    encodeFrame P p = P.startMarker :: (insideOf P p ++ [P.endMarker]) := by
  simp [encodeFrame_eq, insideOf]

theorem frameOf_eq_encodeFrame (P : Params) (p : Packet) : frameOf P p = encodeFrame P p := by
  rw [encodeFrame_eq, checksumBytes_eq_complementOfSum, frameOf]

/-- A flip moves the sum of body and checksum byte, which is the same in every frame. -/
theorem flipBit_insideOf_ne {p q : Packet} {k bit : Nat} (hk : k < (insideOf P p).length) (hbit : bit < 8) :
    flipBit (insideOf P p) k bit ≠ insideOf P q := fun h =>
  checksumBytes_flipBit_ne hk hbit <| by
    rw [h, insideOf, insideOf, checksumBytes_append_self, checksumBytes_append_self]

/-- Only bits 0, 4 and 5 of the flags have a say in the header's length (spec/10_state.md R28). -/
theorem headerLength_xor {bit : Nat} (h : ¬(bit = 0 ∨ bit = 4 ∨ bit = 5)) (flags : Byte) :
    headerLength (flags ^^^ (1#8 <<< bit)) = headerLength flags := by
  obtain ⟨h0, h4, h5⟩ : bit ≠ 0 ∧ bit ≠ 4 ∧ bit ≠ 5 := by simpa using h
  have hkeeps {i : Nat} (hi : bit ≠ i) : (flags ^^^ (1#8 <<< bit)).getLsbD i = flags.getLsbD i := by
    rw [← BitVec.twoPow_eq, BitVec.getLsbD_xor, BitVec.getLsbD_twoPow, decide_eq_false hi, Bool.and_false,
      Bool.xor_false]
  rw [headerLength, headerLength, headerCodes, headerCodes, hkeeps h0, hkeeps h4, hkeeps h5]

/-- A flip can leave no room for the header only where it changes the header's length. -/
theorem flag_of_truncatedAt_flip {p : Packet} {k bit : Nat} {code : BitVec 4}
    (h : truncatedAt P (P.startMarker :: (flipBit (insideOf P p) k bit ++ [P.endMarker])) = some code) :
    k = 0 ∧ (bit = 0 ∨ bit = 4 ∨ bit = 5) := by
  obtain ⟨H, hH, hlen⟩ := exists_headerOf_eq_cons p
  rw [insideOf, bodyOf, hH, List.cons_append, List.cons_append] at h
  cases k with
  | zero =>
    refine ⟨rfl, by_contra fun hbit => ?_⟩
    have hshort : _ < headerLength (p.flags ^^^ (1#8 <<< bit)) := length_of_truncatedAt h
    rw [headerLength_xor hbit] at hshort
    simp at hshort
    omega
  | succ k =>
    rw [flipBit_cons_succ] at h
    have hshort := length_of_truncatedAt h
    simp [flipBit] at hshort
    omega

/-- A flip that makes the data region illegal is not in the checksum byte. -/
theorem not_checksum_of_malformed_flip (hP : P.wellFormed = true) {p : Packet} {k bit base : Nat} {flags c e : Byte}
    {data : List Byte} {x : CodecError} (hk : k < (insideOf P p).length)
    (h : Parts P (P.startMarker :: (flipBit (insideOf P p) k bit ++ [P.endMarker])) flags data c e)
    (hx : unescapeBytes P data base = .error x) : k + 1 < (insideOf P p).length := by
  refine Nat.lt_of_le_of_ne hk fun heq => ?_
  obtain rfl : k = (bodyOf P p).length := by simpa [insideOf] using heq
  rw [insideOf, flipBit_length_append, List.append_assoc, List.singleton_append] at h
  rw [unescape_data_of_parts_body hP h] at hx
  cases hx

/-- How `DECODE` rejects a frame in which a bit between the markers was flipped (spec/45_decoder.md R241). -/
theorem status_of_rejected_flip (hP : P.wellFormed = true) {p : Packet} {F : List Byte} {k bit : Nat} {x : CodecError}
    (hk : k < (insideOf P p).length) (hF : F = P.startMarker :: (flipBit (insideOf P p) k bit ++ [P.endMarker]))
    (h : Rejected P F x) :
    errorStatus x = .checksumMismatch ∨
    (errorStatus x = .truncatedFrame ∧ k = 0 ∧ (bit = 0 ∨ bit = 4 ∨ bit = 5) ∧
      ∃ code, truncatedAt P F = some code) ∨
    (errorStatus x = .malformedEscape ∧ k + 1 < (insideOf P p).length ∧
      ∃ flags B rest y c e, Parts P F flags (escaped P B ++ rest) c e ∧ illegalPattern P rest = some y) := by
  cases h with
  | missingStart hb => exact absurd (List.cons.inj hF).1 hb
  | truncated h =>
    obtain ⟨hzero, hbit⟩ := flag_of_truncatedAt_flip (hF ▸ h)
    exact .inr (.inl ⟨rfl, hzero, hbit, _, h⟩)
  | malformedEscape h hx =>
    obtain ⟨hstatus, B, rest, y, rfl, hrest⟩ := unescapeBytes_error hP hx
    have hdata := not_checksum_of_malformed_flip hP hk (hF ▸ h) hx
    rw [escapeBytes_eq_escaped] at h
    exact .inr (.inr ⟨hstatus, hdata, _, B, rest, y, _, _, h, hrest⟩)
  | checksumMismatch hc => exact .inl rfl
  | @missingEnd body e he =>
    have hlast : body ++ [checksumBytes body] ++ [e] = flipBit (insideOf P p) k bit ++ [P.endMarker] := by
      simpa using hF
    obtain ⟨-, hend⟩ := List.append_inj' hlast rfl
    exact absurd (List.cons.inj hend).1 he

end

/-- Settles O38: a flip changes the sum that every frame has, so the buffer is no frame and `DECODE` rejects it; the
markers stand where they stood, so it is one of the other three checks that does. -/
theorem singleBitFlipsAreRejected : Obligations.SingleBitFlipsAreRejected := by
  intro s p k bit hP hs hk hkL hbit hbuf
  obtain ⟨j, rfl⟩ := Nat.exists_eq_add_of_le' hk
  have hL : (frameOf s.params p).length = (insideOf s.params p).length + 2 := by
    simp [frameOf_eq_encodeFrame, encodeFrame_eq_insideOf]
  have hj : j < (insideOf s.params p).length := by omega
  rw [frameOf_eq_encodeFrame, encodeFrame_eq_insideOf, flipBit_cons_succ, flipBit_append_left hj] at hbuf
  obtain ⟨q, -, -, hframe⟩ | ⟨x, hnext, hrej⟩ := exec_decode_answers hP hs
  · rw [encodeFrame_eq_insideOf, hbuf] at hframe
    obtain ⟨hinside, -⟩ := List.append_inj' (List.cons.inj hframe).2 rfl
    exact absurd hinside (flipBit_insideOf_ne hj hbit)
  · refine ⟨_, _, hnext, State.raiseError_rsp s x, ?_⟩
    have h := status_of_rejected_flip hP hj hbuf hrej
    rw [hL]
    simpa [errorResponse] using h

end Sys2Proof.Machine
end

section
/-! PROOFS. The decoder's state machine and the consolidated function of spec/45_decoder.md section 3: the
transitions, and that the machine ends where the function does. -/

namespace Sys2Proof.Machine

/-! ## Transitions -/

/-- Settles O24: the state a turn writes, in each case of a turn that does not stop. -/
theorem decoderTransitionsFollowTheTable : Obligations.DecoderTransitionsFollowTheTable := by
  intro P inp r r' h
  obtain ⟨hs, -, -, rfl⟩ | ⟨hs, -, v, -, rfl⟩ | ⟨hs, -, B, -, rfl⟩ | ⟨hs, -, rfl⟩ | ⟨hs, -, -, rfl⟩ := decStep_ok h
  · simp [hs]
  · cases hS : r.state with
    | flags | target | source | device | command | seqNo | err => simp [storeField]
    | start | data | checksum | endState | validated | idle => simp [hS, readsField] at hs
  · simp [hs]
  · simp [hs]
  · simp [hs]

/-! ## Where the machine ends -/

/-- With turns enough for the states ahead, the machine ends from these registers with this answer. -/
def ComesTo (P : Params) (inp : List Byte) (r : DecRegs) (x : Except CodecError Packet) : Prop :=
  ∀ fuel, 11 ≤ fuel + (decStateCode r.state).toNat →
    (decLoop P inp fuel r).map decPacket = x.mapError Stop.error

section

variable {P : Params} {inp : List Byte} {r r' : DecRegs} {x : Except CodecError Packet}

/-- Before `Validated` the loop has a turn left, and takes it. -/
theorem decLoop_running {fuel : Nat} (hS : (decStateCode r.state).toNat < 11)
    (hfuel : 11 ≤ fuel + (decStateCode r.state).toNat) :
    ∃ n, fuel = n + 1 ∧ decLoop P inp fuel r = decStep P inp r >>= decLoop P inp n := by
  obtain ⟨n, rfl⟩ : ∃ n, fuel = n + 1 := Nat.exists_eq_succ_of_ne_zero (by omega)
  refine ⟨n, rfl, if_neg fun hv => ?_⟩
  simp [hv, decStateCode] at hS

theorem ComesTo.of_ok (hS : (decStateCode r.state).toNat < 11) (hstep : decStep P inp r = .ok r')
    (hlater : (decStateCode r.state).toNat < (decStateCode r'.state).toNat) (h : ComesTo P inp r' x) :
    ComesTo P inp r x := by
  intro fuel hfuel
  obtain ⟨n, rfl, hloop⟩ := decLoop_running hS hfuel
  rw [hloop, hstep]
  exact h n (by omega)

theorem ComesTo.of_error {e : CodecError} (hS : (decStateCode r.state).toNat < 11)
    (hstep : decStep P inp r = .error (.error e)) : ComesTo P inp r (.error e) := by
  intro fuel hfuel
  obtain ⟨n, -, hloop⟩ := decLoop_running hS hfuel
  rw [hloop, hstep]
  rfl

theorem ComesTo.unique {y : Except CodecError Packet} (hx : ComesTo P inp r x) (hy : ComesTo P inp r y) : x = y := by
  have h := (hx 11 (Nat.le_add_right ..)).symm.trans (hy 11 (Nat.le_add_right ..))
  cases x <;> cases y <;> simp_all [Except.mapError]

/-! ## The suffix -/

theorem comesTo_validated (hS : r.state = .validated) : ComesTo P inp r (.ok (decPacket r)) := fun fuel _ => by
  rw [decLoop_validated P inp fuel hS]
  rfl

theorem memRead_eq_getD {i : Nat} (h : i < inp.length) : memRead inp i = .ok (inp.getD i 0) := by
  rw [memRead_of_lt h, List.getD_eq_getElem _ _ h]

/-- The end marker's check, on the byte at `pos` (spec/45_decoder.md R233). -/
def fromEnd (P : Params) (inp : List Byte) (p : Packet) (pos : Nat) : Except CodecError Packet :=
  if inp.getD pos 0 ≠ P.endMarker then .error (.missingEnd pos P.endMarker (inp.getD pos 0)) else .ok p

/-- The checksum's check, on the byte at `pos`, and what follows (spec/45_decoder.md R232). -/
def fromChecksum (P : Params) (inp : List Byte) (p : Packet) (pos : Nat) : Except CodecError Packet :=
  if inp.getD pos 0 ≠ checksumBytes (slice inp 1 pos) then
    .error (.checksumMismatch pos (checksumBytes (slice inp 1 pos)) (inp.getD pos 0))
  else fromEnd P inp p (pos + 1)

/-- What the consolidated function does after the header. -/
def fromData (P : Params) (inp : List Byte) (p : Packet) (pos : Nat) : Except CodecError Packet := do
  let payload ← frameTail P inp pos
  .ok { p with payload := payload }

theorem comesTo_fromEnd (hS : r.state = .endState) (hlen : r.len = inp.length) (hpos : r.pos + 1 = inp.length) :
    ComesTo P inp r (fromEnd P inp (decPacket r) r.pos) := by
  have hstep : decStep P inp r =
      if inp.getD r.pos 0 ≠ P.endMarker then .error (.error (.missingEnd r.pos P.endMarker (inp.getD r.pos 0)))
      else .ok { r with pos := r.pos + 1, state := .validated } := by
    simp [decStep, hS, decEnd, memRead_eq_getD (Nat.lt_of_succ_le hpos.le), hlen, hpos, bind, Except.bind]
  have hrunning : (decStateCode r.state).toNat < 11 := by simp [hS, decStateCode]
  unfold fromEnd
  split_ifs at hstep ⊢
  · exact .of_error hrunning hstep
  · exact .of_ok hrunning hstep (by simp [hS, decStateCode]) (comesTo_validated rfl)

theorem comesTo_fromChecksum (hS : r.state = .checksum) (hlen : r.len = inp.length) (hdend : r.dend = r.pos)
    (hpos : r.pos + 2 = inp.length) : ComesTo P inp r (fromChecksum P inp (decPacket r) r.pos) := by
  have hstep : decStep P inp r =
      if inp.getD r.pos 0 ≠ checksumBytes (slice inp 1 r.pos) then
        .error (.error (.checksumMismatch r.pos (checksumBytes (slice inp 1 r.pos)) (inp.getD r.pos 0)))
      else .ok { r with pos := r.pos + 1, state := .endState } := by
    simp only [decStep, hS, decChecksum, hdend, memRead_eq_getD (show r.pos < inp.length by omega)]
    rfl
  have hrunning : (decStateCode r.state).toNat < 11 := by simp [hS, decStateCode]
  unfold fromChecksum
  split_ifs at hstep ⊢
  · exact .of_error hrunning hstep
  · exact .of_ok hrunning hstep (by simp [hS, decStateCode]) (comesTo_fromEnd rfl hlen hpos)

theorem fromData_eq (p : Packet) (pos : Nat) :
    fromData P inp p pos =
      if inp.length - pos < 2 then .error (.truncatedFrame inp.length .data)
      else unescapeBytes P (slice inp pos (inp.length - 2)) pos >>= fun B =>
        fromChecksum P inp { p with payload := B } (inp.length - 2) := by
  unfold fromData frameTail
  by_cases hfit : inp.length - pos < 2
  · simp only [if_pos hfit]
    rfl
  · have hlast : inp.length - 2 + 1 = inp.length - 1 := by omega
    simp only [if_neg hfit, fromChecksum, fromEnd, hlast, bind_assoc]
    congr 1
    funext B
    split_ifs <;> rfl

theorem comesTo_fromData (hS : r.state = .data) (hlen : r.len = inp.length) :
    ComesTo P inp r (fromData P inp (decPacket r) r.pos) := by
  have hrunning : (decStateCode r.state).toNat < 11 := by simp [hS, decStateCode]
  have hdata : decStep P inp r = decData P inp r := by simp only [decStep, hS]
  rw [fromData_eq]
  by_cases hfit : inp.length - r.pos < 2
  · rw [if_pos hfit]
    refine .of_error hrunning ?_
    simp only [hdata, decData, hlen, if_pos hfit]
  · rw [if_neg hfit]
    cases hB : unescapeBytes P (slice inp r.pos (inp.length - 2)) r.pos with
    | error e =>
      refine .of_error hrunning ?_
      simp only [hdata, decData, hlen, if_neg hfit, hB]
    | ok B =>
      have hok : decStep P inp r =
          .ok { r with dend := inp.length - 2, payload := B, pos := inp.length - 2, state := .checksum } := by
        simp only [hdata, decData, hlen, if_neg hfit, hB]
      refine .of_ok hrunning hok (by simp [hS, decStateCode]) (comesTo_fromChecksum rfl hlen rfl ?_)
      show inp.length - 2 + 2 = inp.length
      omega

/-! ## The header -/

/-- A state that reads a field reads the byte the consolidated function does, or runs out of input with it. -/
theorem comesTo_read {k : Byte × Nat → Except CodecError Packet} {S : DecState} (hs : r.state = S)
    (hS : readsField S = true) (hlen : r.len = inp.length)
    (h : ∀ v, ComesTo P inp (storeField S v { r with pos := r.pos + 1 }) (k (v, r.pos + 1))) :
    ComesTo P inp r (frameRead inp r.pos S >>= k) := by
  subst hs
  have hrunning : (decStateCode r.state).toNat < 11 :=
    Nat.lt_of_le_of_lt ((decStateCode_le_seven_iff _).2 (.inr hS)) (by decide)
  cases hv : inp[r.pos]? with
  | none =>
    have hend : r.len ≤ r.pos := hlen ▸ List.getElem?_eq_none_iff.1 hv
    rw [frameRead, hv]
    refine .of_error hrunning ?_
    rw [decStep_readsField hS, readHeaderByte_truncated hend]
    rfl
  | some v =>
    have hlt : r.pos < r.len := hlen ▸ (List.getElem?_eq_some_iff.1 hv).1
    obtain ⟨-, -, hlater⟩ := storeField_enters hS v (r.pos + 1) []
    rw [frameRead, hv]
    refine .of_ok hrunning ?_ hlater (h v)
    rw [decStep_readsField hS, readHeaderByte_ok hlt hv]
    rfl

/-- The state of an optional field is entered exactly where the consolidated function reads it. -/
theorem comesTo_readIf {k : Byte × Nat → Except CodecError Packet} {S S' : DecState} {c : Bool}
    (hs : r.state = if c then S else S') (hS : readsField S = true) (hlen : r.len = inp.length)
    (hthere : ∀ v, c = true → ComesTo P inp (storeField S v { r with pos := r.pos + 1 }) (k (v, r.pos + 1)))
    (habsent : c = false → ComesTo P inp r (k (0x00, r.pos))) :
    ComesTo P inp r (frameReadIf c inp r.pos S >>= k) := by
  cases c with
  | true => exact comesTo_read hs hS hlen fun v => hthere v rfl
  | false => exact habsent rfl

/-! The consolidated function from each optional field on, with what it has read before in `p`. -/

def fromErr (P : Params) (inp : List Byte) (p : Packet) (pos : Nat) : Except CodecError Packet := do
  let (v, pos) ← frameReadIf (hasFlag p.flags .isResponse) inp pos .err
  fromData P inp { p with errCode := v } pos

def fromDevice (P : Params) (inp : List Byte) (p : Packet) (pos : Nat) : Except CodecError Packet := do
  let (dev, pos) ← frameRead inp pos .device
  let (cmd, pos) ← frameRead inp pos .command
  let (seq, pos) ← frameRead inp pos .seqNo
  fromErr P inp { p with device := dev, command := cmd, seq := seq } pos

def fromSource (P : Params) (inp : List Byte) (p : Packet) (pos : Nat) : Except CodecError Packet := do
  let (v, pos) ← frameReadIf (hasFlag p.flags .hasSource) inp pos .source
  fromDevice P inp { p with source := v } pos

def fromTarget (P : Params) (inp : List Byte) (p : Packet) (pos : Nat) : Except CodecError Packet := do
  let (v, pos) ← frameReadIf (hasFlag p.flags .hasTarget) inp pos .target
  fromSource P inp { p with target := v } pos

theorem presentOrZero_of_present {flags : Byte} {f : Flag} (h : hasFlag flags f = true) (v : Byte) :
    presentOrZero flags f v = v := if_pos h

theorem presentOrZero_of_absent {flags : Byte} {f : Flag} (h : hasFlag flags f = false) (v : Byte) :
    presentOrZero flags f v = 0x00 := if_neg (by simp [h])

theorem comesTo_fromErr (hs : r.state = if hasFlag r.f .isResponse then .err else .data)
    (hlen : r.len = inp.length) : ComesTo P inp r (fromErr P inp (decPacket r) r.pos) := by
  refine comesTo_readIf hs rfl hlen (fun v (hflag : hasFlag r.f .isResponse = true) => ?_)
    (fun (hflag : hasFlag r.f .isResponse = false) => ?_)
  · have h := comesTo_fromData (P := P) (r := storeField .err v { r with pos := r.pos + 1 }) rfl hlen
    simpa only [storeField, decPacket, presentOrZero_of_present hflag] using h
  · have h := comesTo_fromData (P := P) (r := r) (hs.trans (if_neg (ne_true_of_eq_false hflag))) hlen
    simpa only [decPacket, presentOrZero_of_absent hflag] using h

theorem comesTo_fromDevice (hs : r.state = .device) (hlen : r.len = inp.length) :
    ComesTo P inp r (fromDevice P inp (decPacket r) r.pos) :=
  comesTo_read hs rfl hlen fun _ => comesTo_read rfl rfl hlen fun _ => comesTo_read rfl rfl hlen fun _ =>
    comesTo_fromErr rfl hlen

theorem comesTo_fromSource (hs : r.state = if hasFlag r.f .hasSource then .source else .device)
    (hlen : r.len = inp.length) : ComesTo P inp r (fromSource P inp (decPacket r) r.pos) := by
  refine comesTo_readIf hs rfl hlen (fun v (hflag : hasFlag r.f .hasSource = true) => ?_)
    (fun (hflag : hasFlag r.f .hasSource = false) => ?_)
  · have h := comesTo_fromDevice (P := P) (r := storeField .source v { r with pos := r.pos + 1 }) rfl hlen
    simpa only [storeField, decPacket, presentOrZero_of_present hflag] using h
  · have h := comesTo_fromDevice (P := P) (r := r) (hs.trans (if_neg (ne_true_of_eq_false hflag))) hlen
    simpa only [decPacket, presentOrZero_of_absent hflag] using h

theorem comesTo_fromTarget
    (hs : r.state = if hasFlag r.f .hasTarget then .target else if hasFlag r.f .hasSource then .source else .device)
    (hlen : r.len = inp.length) : ComesTo P inp r (fromTarget P inp (decPacket r) r.pos) := by
  refine comesTo_readIf hs rfl hlen (fun v (hflag : hasFlag r.f .hasTarget = true) => ?_)
    (fun (hflag : hasFlag r.f .hasTarget = false) => ?_)
  · have h := comesTo_fromSource (P := P) (r := storeField .target v { r with pos := r.pos + 1 }) rfl hlen
    simpa only [storeField, decPacket, presentOrZero_of_present hflag] using h
  · have h := comesTo_fromSource (P := P) (r := r) (hs.trans (if_neg (ne_true_of_eq_false hflag))) hlen
    simpa only [decPacket, presentOrZero_of_absent hflag] using h

end

theorem decodeFrame_missingStart {P : Params} {b : Byte} (hb : b ≠ P.startMarker) (G : List Byte) :
    decodeFrame P (b :: G) = .error (.missingStart P.startMarker b) := if_pos hb

theorem decodeFrame_start (P : Params) (G : List Byte) :
    decodeFrame P (P.startMarker :: G) =
      frameRead (P.startMarker :: G) 1 .flags >>= fun x =>
        fromTarget P (P.startMarker :: G) { Packet.zero with flags := x.1 } x.2 := if_neg (not_not.2 rfl)

/-- The machine started on a buffer ends where the consolidated function does. -/
theorem comesTo_decodeFrame (P : Params) (inp : List Byte) (r : DecRegs) :
    ComesTo P inp (decInit inp r) (decodeFrame P inp) := by
  cases inp with
  | nil => exact .of_error (Nat.zero_lt_succ _) rfl
  | cons b G =>
    have hstep : decStep P (b :: G) (decInit (b :: G) r) =
        if b ≠ P.startMarker then .error (.error (.missingStart P.startMarker b))
        else .ok { decInit (b :: G) r with pos := 1, state := .flags } := rfl
    by_cases hb : b = P.startMarker
    · subst hb
      rw [decodeFrame_start]
      refine .of_ok (Nat.zero_lt_succ _) (hstep.trans (if_neg (not_not.2 rfl))) (Nat.zero_lt_succ _) ?_
      exact comesTo_read rfl rfl rfl fun v => comesTo_fromTarget rfl rfl
    · rw [decodeFrame_missingStart hb]
      exact .of_error (Nat.zero_lt_succ _) (hstep.trans (if_pos hb))

theorem decRun_eq_decodeFrame (P : Params) (inp : List Byte) (r : DecRegs) :
    decRun P inp r = (decodeFrame P inp).mapError Stop.error := by
  rw [← comesTo_decodeFrame P inp r decMaxSteps (Nat.le_succ 11)]
  rfl

/-- Settles O23. -/
theorem decoderMachineIsTheConsolidatedFunction : Obligations.DecoderMachineIsTheConsolidatedFunction := by
  intro P inp r
  rw [decRun_eq_decodeFrame]
  cases decodeFrame P inp <;> rfl

end Sys2Proof.Machine
end

section
/-! PROOFS. What the consolidated function answers for every buffer, with any parameters: a wrong first byte, a
truncation, or a whole header and the checks after it (spec/45_decoder.md section 3). -/

namespace Sys2Proof.Machine

open Sys2Proof.Claims

/-! ## Every buffer -/

/-- The three kinds of buffer, with what decoding each answers. -/
inductive Verdict (P : Params) : List Byte → Except CodecError Packet → Prop
  | missingStart {b : Byte} {G : List Byte} (hb : b ≠ P.startMarker) :
      Verdict P (b :: G) (.error (.missingStart P.startMarker b))
  | truncated {inp : List Byte} {S : DecState} (h : truncatedAt P inp = some (decStateCode S))
      (hS : (decStateCode S).toNat ≤ 8) : Verdict P inp (.error (.truncatedFrame inp.length S))
  | complete {inp data : List Byte} {p : Packet} {c e : Byte}
      (hinp : inp = P.startMarker :: headerOf p ++ (data ++ [c, e])) :
      Verdict P inp (fromData P inp p (headerLength p.flags))

section

variable {P : Params} {inp rest : List Byte} {r : DecRegs} {v : Byte}

/-- The field a header state reads moves from what is ahead to what is read. -/
theorem Scanning.read (h : Scanning P inp r (v :: rest)) (hS : readsField r.state = true) :
    decStep P inp r = .ok (storeField r.state v { r with pos := r.pos + 1 }) ∧
      Scanning P inp (storeField r.state v { r with pos := r.pos + 1 }) rest := by
  have hlt : r.pos < r.len := by rw [h.len_eq]; simp
  have hconsumed := consumed_storeField P hS h.entry v (r.pos + 1)
  obtain ⟨hentry, hsuffix, -⟩ := storeField_enters hS v (r.pos + 1) rest
  refine ⟨?_, ⟨?_, ?_, ?_, hentry, hsuffix⟩⟩
  · rw [decStep_readsField hS, readHeaderByte_ok hlt h.getElem?_pos]
    rfl
  · rw [hconsumed, List.append_assoc, List.singleton_append, ← h.split]
  · rw [hconsumed, storeField_pos, List.length_append, List.length_singleton, ← h.pos]
  · rw [storeField_len]
    exact h.len

/-- The last header state is followed by `Data`. -/
theorem storeField_le_data {S : DecState} (hS : readsField S = true) (v : Byte) (r : DecRegs) :
    (decStateCode (storeField S v r).state).toNat ≤ 8 := by
  cases S with
  | flags | target | seqNo => simp only [storeField]; split_ifs <;> decide
  | source | device | command | err => exact of_decide_eq_true rfl
  | start | data | checksum | endState | validated | idle => cases hS

theorem Scanning.verdict_end (h : Scanning P inp r []) (hS : (decStateCode r.state).toNat ≤ 7) :
    ∃ x, ComesTo P inp r x ∧ Verdict P inp x := by
  have hinp : inp = consumed P r := by simpa using h.split
  have hpos : r.pos = inp.length := by rw [h.pos, hinp]
  have hstart : r.state = .start → r.pos = 0 := fun hs => by simp [h.pos, consumed, hs]
  have hstep := decStep_header_truncated P inp hstart hS (h.len.trans hpos.symm).le
  rw [hpos] at hstep
  exact ⟨_, .of_error (by omega) hstep, .truncated (hinp ▸ truncatedAt_consumed P hS h.entry) (by omega)⟩

theorem Scanning.verdict_data (h : Scanning P inp r rest) (hS : r.state = .data) :
    ∃ x, ComesTo P inp r x ∧ Verdict P inp x := by
  have hinp : inp = P.startMarker :: headerOf (decPacket r) ++ rest := by simpa only [consumed, hS] using h.split
  have hpos : r.pos = headerLength r.f := by
    simp only [h.pos, consumed, hS, headerLength_eq, List.length_cons, headerOf_length]
    rfl
  by_cases hrest : rest.length < 2
  · have hstep := decStep_data_truncated P inp hS (by rw [h.len_eq]; omega)
    rw [h.len] at hstep
    exact ⟨_, .of_error (by simp [hS, decStateCode]) hstep,
      .truncated (hinp ▸ truncatedAt_header_append P (decPacket r) hrest) le_rfl⟩
  · obtain ⟨data, c, e, rfl⟩ := exists_eq_append_suffix (not_lt.1 hrest)
    exact ⟨_, comesTo_fromData hS h.len, hpos ▸ .complete hinp⟩

theorem Scanning.verdict (h : Scanning P inp r rest) (hS : (decStateCode r.state).toNat ≤ 8) :
    ∃ x, ComesTo P inp r x ∧ Verdict P inp x := by
  induction rest generalizing r with
  | nil =>
    by_cases hdata : r.state = .data
    · exact h.verdict_data hdata
    · refine h.verdict_end ?_
      revert hS hdata
      cases r.state <;> decide
  | cons v rest ih =>
    cases hs : r.state with
    | start =>
      obtain rfl : inp = v :: rest := by simpa [consumed, hs] using h.split
      have hstep : decStep P (v :: rest) r =
          if v ≠ P.startMarker then .error (.error (.missingStart P.startMarker v))
          else .ok { r with pos := 1, state := .flags } := by
        simp [decStep, decStart, hs, h.len, memRead, bind, Except.bind]
      by_cases hv : v = P.startMarker
      · subst hv
        have hnext : Scanning P (P.startMarker :: rest) { r with pos := 1, state := .flags } rest :=
          ⟨rfl, rfl, h.len, rfl, trivial⟩
        obtain ⟨x, hx, hverdict⟩ := ih hnext (by simp [decStateCode])
        exact ⟨x, .of_ok (by omega) (hstep.trans (if_neg (not_not.2 rfl))) (by simp [hs, decStateCode]) hx, hverdict⟩
      · exact ⟨_, .of_error (by omega) (hstep.trans (if_pos hv)), .missingStart hv⟩
    | flags | target | source | device | command | seqNo | err =>
      have hreads : readsField r.state = true := by rw [hs]; rfl
      obtain ⟨hstep, hnext⟩ := h.read hreads
      obtain ⟨-, -, hlater⟩ := storeField_enters hreads v (r.pos + 1) rest
      obtain ⟨x, hx, hverdict⟩ := ih hnext (storeField_le_data hreads v _)
      exact ⟨x, .of_ok (by omega) hstep hlater hx, hverdict⟩
    | data => exact h.verdict_data hs
    | checksum | endState | validated | idle => simp [hs, decStateCode] at hS

end

theorem decodeFrame_verdict (P : Params) (inp : List Byte) : Verdict P inp (decodeFrame P inp) := by
  obtain ⟨x, hx, hverdict⟩ := (decInit_scanning P inp DecRegs.reset).verdict (Nat.zero_le 8)
  rwa [(comesTo_decodeFrame P inp DecRegs.reset).unique hx]

/-! ## Each kind of buffer -/

section

variable {P : Params} {inp : List Byte}

theorem not_truncatedAt_of_parts {data : List Byte} {flags c e : Byte} (h : Parts P inp flags data c e) :
    truncatedAt P inp = none := by
  obtain ⟨H, rfl, hlen⟩ := h
  refine Option.eq_none_iff_forall_ne_some.2 fun code hcode => ?_
  have hshort := length_of_truncatedAt hcode
  simp at hshort
  omega

/-- A buffer is cut in one way. -/
theorem parts_unique {flags flags' c c' e e' : Byte} {data data' : List Byte} (h : Parts P inp flags data c e)
    (h' : Parts P inp flags' data' c' e') : flags = flags' ∧ data = data' ∧ c = c' ∧ e = e' := by
  obtain ⟨H, rfl, hlen⟩ := h
  obtain ⟨H', heq, hlen'⟩ := h'
  simp only [List.cons.injEq, true_and] at heq
  obtain ⟨rfl, heq⟩ := heq
  obtain ⟨hbody, hsuffix⟩ := List.append_inj' heq rfl
  obtain ⟨-, hdata⟩ := List.append_inj hbody (by omega)
  simpa [hdata] using hsuffix

theorem truncatedAt_of_missingStart {b : Byte} (hb : b ≠ P.startMarker) (G : List Byte) :
    truncatedAt P (b :: G) = none := by
  cases G <;> simp [truncatedAt, hb]

/-- A truncated buffer is answered with the state that ran out of input. -/
theorem decodeFrame_of_truncatedAt {code : BitVec 4} (h : truncatedAt P inp = some code) :
    ∃ S, decStateCode S = code ∧ decodeFrame P inp = .error (.truncatedFrame inp.length S) := by
  generalize hx : decodeFrame P inp = x
  have hverdict := hx ▸ decodeFrame_verdict P inp
  cases hverdict with
  | missingStart hb => simp [truncatedAt_of_missingStart hb] at h
  | truncated h' => exact ⟨_, Option.some.inj (h'.symm.trans h), rfl⟩
  | @complete _ data p c e hinp =>
    have hparts : Parts P inp p.flags data c e := hinp ▸ parts_of_header P p data c e
    simp [not_truncatedAt_of_parts hparts] at h

theorem length_of_split {p : Packet} {data : List Byte} {c e : Byte}
    (hinp : inp = P.startMarker :: headerOf p ++ (data ++ [c, e])) :
    inp.length = headerLength p.flags + data.length + 2 := by
  rw [hinp, headerLength_eq, ← headerOf_length]
  simp
  omega

/-- What follows a whole header, read off the parts of the buffer: the escaped payload, the checksum of the body,
which is all between the start marker and the suffix, and the end marker. -/
theorem fromData_of_split {p : Packet} {data : List Byte} {c e : Byte}
    (hinp : inp = P.startMarker :: headerOf p ++ (data ++ [c, e])) :
    fromData P inp p (headerLength p.flags) =
      unescapeBytes P data (headerLength p.flags) >>= fun B =>
        if c ≠ checksumBytes (inp.tail.take (inp.length - 3)) then
          .error (.checksumMismatch (inp.length - 2) (checksumBytes (inp.tail.take (inp.length - 3))) c)
        else if e ≠ P.endMarker then .error (.missingEnd (inp.length - 1) P.endMarker e)
        else .ok { p with payload := B } := by
  have hheader : (P.startMarker :: headerOf p).length = headerLength p.flags := by
    rw [headerLength_eq, ← headerOf_length, List.length_cons]
  have hlength := length_of_split hinp
  have hslice : slice inp (headerLength p.flags) (inp.length - 2) = data := by
    rw [hlength, hinp, ← hheader]
    exact slice_append_middle _ _ _
  have hbody : slice inp 1 (inp.length - 2) = inp.tail.take (inp.length - 3) := by
    rw [slice, List.drop_one]
    rfl
  have hsuffix : inp.drop (inp.length - 2) = [c, e] := by
    rw [hinp, ← List.append_assoc]
    exact List.drop_left' (by simp; omega)
  have hc : inp.getD (inp.length - 2) 0 = c := by
    rw [List.getD_eq_getElem?_getD, getElem?_of_drop hsuffix (Nat.add_zero _).symm]
    rfl
  have he : inp.getD (inp.length - 1) 0 = e := by
    rw [List.getD_eq_getElem?_getD, getElem?_of_drop (j := 1) hsuffix (by omega)]
    rfl
  have hlast : inp.length - 2 + 1 = inp.length - 1 := by omega
  rw [fromData_eq, if_neg (by omega), hslice]
  simp only [fromChecksum, fromEnd, hbody, hc, he, hlast]

/-- A buffer with a whole header is answered with what follows it: a packet with these flags, or the first check that
fails. -/
theorem decodeFrame_of_parts {data : List Byte} {flags c e : Byte} (h : Parts P inp flags data c e) :
    ∃ p, inp = P.startMarker :: headerOf p ++ (data ++ [c, e]) ∧ p.flags = flags ∧
      decodeFrame P inp = fromData P inp p (headerLength flags) := by
  generalize hx : decodeFrame P inp = x
  have hverdict := hx ▸ decodeFrame_verdict P inp
  cases hverdict with
  | missingStart hb =>
    obtain ⟨H, heq, -⟩ := h
    exact absurd (List.cons.inj heq).1 hb
  | truncated h' => simp [not_truncatedAt_of_parts h] at h'
  | @complete _ data' p c' e' hinp =>
    have hparts : Parts P inp p.flags data' c' e' := hinp ▸ parts_of_header P p data' c' e'
    obtain ⟨hflags, rfl, rfl, rfl⟩ := parts_unique hparts h
    exact ⟨p, hinp, hflags, hflags ▸ rfl⟩

end

end Sys2Proof.Machine
end

section
/-! PROOFS. What each operation answers: the result or error it has, which fields that holds, and what the operation
leaves unchanged (spec/30_encoding.md R74, spec/60_exceptions.md section 2). -/

namespace Sys2Proof.Machine

open Sys2Proof.Claims

/-! ## Errors -/

/-- The errors an operation can end with on a buffer of `n` bytes: none is `TRAILING_BYTES` (spec/30_encoding.md R86),
each offset is within the buffer, and the state that ran out of input is one that reads
(spec/60_exceptions.md R265). -/
def Deliverable (n : Nat) : CodecError → Prop
  | .missingStart _ _ => True
  | .missingEnd k _ _ | .badCode k _ | .trailingEsc k | .rawMarker k _ | .checksumMismatch k _ _ => k ≤ n
  | .truncatedFrame k S => k ≤ n ∧ (decStateCode S).toNat ≤ 8
  | .trailingBytes _ | .illegalOp _ => False

/-- The scan reports an index at or before the last byte. -/
theorem unescapeBytes_deliverable {P : Params} {C : List Byte} {base n : Nat} {x : CodecError}
    (h : unescapeBytes P C base = .error x) (hn : base + C.length ≤ n) : Deliverable n x := by
  induction C, base using unescapeBytes.induct P with
  | case1 base => cases h
  | case2 base =>
    rw [unescapeBytes_trailing] at h
    cases h
    exact (Nat.le_add_right ..).trans hn
  | case3 base c D m hm ih =>
    rw [unescapeBytes_pair hm, map_cons_eq_error] at h
    refine ih h ?_
    simp only [List.length_cons] at hn
    omega
  | case4 base c D hc =>
    rw [unescapeBytes_badCode hc] at h
    cases h
    exact (Nat.le_add_right ..).trans hn
  | case5 b C base hb hm =>
    rw [unescapeBytes_raw hb hm] at h
    cases h
    exact (Nat.le_add_right ..).trans hn
  | case6 b C base hb hm ih =>
    obtain ⟨hs, he⟩ := not_or.1 hm
    rw [unescapeBytes_plain hb hs he, map_cons_eq_error] at h
    refine ih h ?_
    simp only [List.length_cons] at hn
    omega

theorem decodeFrame_deliverable {P : Params} {inp : List Byte} {x : CodecError} (h : decodeFrame P inp = .error x) :
    Deliverable inp.length x := by
  have hverdict := h ▸ decodeFrame_verdict P inp
  generalize hy : Except.error x = y at hverdict
  cases hverdict with
  | missingStart hb =>
    cases hy
    exact trivial
  | truncated _ hS =>
    cases hy
    exact ⟨le_rfl, hS⟩
  | @complete _ data p c e hinp =>
    have hlength := length_of_split hinp
    rw [fromData_of_split hinp] at hy
    cases hB : unescapeBytes P data (headerLength p.flags) with
    | error x' =>
      rw [hB] at hy
      cases hy
      exact unescapeBytes_deliverable hB (by omega)
    | ok B =>
      rw [hB] at hy
      simp only [bind, Except.bind] at hy
      split_ifs at hy <;> cases hy
      · exact Nat.sub_le ..
      · exact Nat.sub_le ..

/-! ## Results -/

/-- What an operation answers, from its request, the parameters and the counter alone. -/
def resultOf (P : Params) (q : Request) (ctr : Byte) : Instr → Except CodecError Response
  | .flagsUnion => .ok { status := .ok, r0 := some (flagsUnion q.a q.b) }
  | .flagsTest bit => .ok { status := .ok, r0 := some (flagsTest q.a bit) }
  | .flagsFromByte | .flagsToByte => .ok { status := .ok, r0 := some q.a }
  | .nodePack => .ok { status := .ok, r0 := some (packNode (portOperand q) (nodeOperand q)) }
  | .nodeUnpack => .ok { status := .ok, r0 := some (zextNibble (portId q.a)), r1 := some (zextNibble (nodeId q.a)) }
  | .seqNext => .ok { status := .ok, r0 := some (nextSeq ctr) }
  | .pktNew => .ok { status := .ok, pkt := some (newPacket q (nextSeq ctr)) }
  | .pktWithSource => .ok { status := .ok, pkt := some (withSource q.pkt q.a) }
  | .pktWithTarget => .ok { status := .ok, pkt := some (withTarget q.pkt q.a) }
  | .escape => .ok { status := .ok, buf := some (escapeBytes P q.buf) }
  | .unescape => (unescapeBytes P q.buf 0).map fun B => { status := .ok, buf := some B }
  | .checksum => .ok { status := .ok, r0 := some (checksumBytes q.buf) }
  | .encode => .ok { status := .ok, buf := some (encodeFrame P q.pkt) }
  | .decode => (decodeFrame P q.buf).map fun p => { status := .ok, pkt := some p }

/-- The state an operation that ends with `OK` leaves, before its response is delivered. -/
def leftBy (s : State) : Instr → State
  | .seqNext | .pktNew => s.withSeq (nextSeq s.seqCtr)
  | .encode => s.loseEncoder
  | .decode => s.loseDecoder
  | .flagsUnion | .flagsTest _ | .flagsFromByte | .flagsToByte | .nodePack | .nodeUnpack | .pktWithSource
  | .pktWithTarget | .escape | .unescape | .checksum => s

/-- Every operation is performed by the one rule, on what it answers and leaves. -/
theorem exec_eq_perform (i : Instr) (s : State) :
    exec i s =
      perform s (((resultOf s.params s.req s.seqCtr i).map fun r => (leftBy s i, r)).mapError Stop.error) := by
  cases i with
  | unescape =>
    change execUnescape s = _
    rw [execUnescape, resultOf]
    cases unescapeBytes s.params s.req.buf 0 <;> rfl
  | decode =>
    change execDecode s = _
    rw [execDecode, resultOf, decRun_eq_decodeFrame]
    cases decodeFrame s.params s.req.buf <;> rfl
  | _ => rfl

section

variable {i : Instr} {s t : State} {r : Response} {e : CodecError}

theorem exec_of_ok (hs : OperandsWithin s) (hr : resultOf s.params s.req s.seqCtr i = .ok r)
    (hfit : outputFits s.params r = true) : exec i s = .next ((leftBy s i).deliver r) := by
  rw [exec_eq_perform, hr]
  exact perform_ok (operandsWithin_iff.1 hs) hfit

theorem exec_of_error (hs : OperandsWithin s) (hr : resultOf s.params s.req s.seqCtr i = .error e) :
    exec i s = .next (s.raiseError e) := by
  rw [exec_eq_perform, hr]
  exact perform_error (operandsWithin_iff.1 hs)

/-- An operation that is performed delivers its result, or raises its error. -/
theorem exec_next (h : exec i s = .next t) :
    (∃ r, resultOf s.params s.req s.seqCtr i = .ok r ∧ outputFits s.params r = true ∧ t = (leftBy s i).deliver r) ∨
    ∃ e, resultOf s.params s.req s.seqCtr i = .error e ∧ t = s.raiseError e := by
  rw [exec_eq_perform] at h
  obtain ⟨-, ⟨u, r, hrun, hfit, rfl⟩ | ⟨e, hrun, rfl⟩⟩ := perform_next h
  · cases hres : resultOf s.params s.req s.seqCtr i with
    | error e => rw [hres] at hrun; cases hrun
    | ok r' =>
      rw [hres] at hrun
      cases hrun
      exact .inl ⟨r, rfl, hfit, rfl⟩
  · cases hres : resultOf s.params s.req s.seqCtr i with
    | error e' =>
      rw [hres] at hrun
      cases hrun
      exact .inr ⟨e, rfl, rfl⟩
    | ok r => rw [hres] at hrun; cases hrun

theorem exec_ne_fault (f : Fault) : exec i s ≠ .fault f := by
  rw [exec_eq_perform]
  intro h
  obtain ⟨-, hrun⟩ := perform_fault h
  cases hres : resultOf s.params s.req s.seqCtr i <;> rw [hres] at hrun <;> cases hrun

/-- Settles O45. -/
theorem operationsNeverFault : Obligations.OperationsNeverFault := fun _ _ => exec_ne_fault

/-- Only `UNESCAPE` and `DECODE` have an error, and it is one of the deliverable ones. -/
theorem resultOf_error {P : Params} {q : Request} {ctr : Byte} (h : resultOf P q ctr i = .error e) :
    (i = .unescape ∨ i = .decode) ∧ Deliverable q.buf.length e := by
  cases i with
  | unescape =>
    cases hB : unescapeBytes P q.buf 0 <;> rw [resultOf, hB] at h <;> cases h
    exact ⟨.inl rfl, unescapeBytes_deliverable hB (Nat.zero_add _).le⟩
  | decode =>
    cases hp : decodeFrame P q.buf <;> rw [resultOf, hp] at h <;> cases h
    exact ⟨.inr rfl, decodeFrame_deliverable hp⟩
  | _ => cases h

/-- With `OK` a response holds the results of the table in spec/30_encoding.md R74, and no error record. -/
theorem resultOf_ok {P : Params} {q : Request} {ctr : Byte} (h : resultOf P q ctr i = .ok r) :
    r.status = .ok ∧ r.err = none ∧ r.r0.isSome = (resultsOf i).r0 ∧ r.r1.isSome = (resultsOf i).r1 ∧
      r.pkt.isSome = (resultsOf i).pkt ∧ r.buf.isSome = (resultsOf i).buf := by
  cases i with
  | unescape =>
    cases hB : unescapeBytes P q.buf 0 <;> rw [resultOf, hB] at h <;> cases h
    exact ⟨rfl, rfl, rfl, rfl, rfl, rfl⟩
  | decode =>
    cases hp : decodeFrame P q.buf <;> rw [resultOf, hp] at h <;> cases h
    exact ⟨rfl, rfl, rfl, rfl, rfl, rfl⟩
  | _ =>
    cases h
    exact ⟨rfl, rfl, rfl, rfl, rfl, rfl⟩

/-- Settles O43. -/
theorem onlyUnescapeAndDecodeRaise : Obligations.OnlyUnescapeAndDecodeRaise := by
  intro i s t hunescape hdecode h
  obtain ⟨r, hr, -, rfl⟩ | ⟨e, he, -⟩ := exec_next h
  · obtain ⟨hstatus, herr, -⟩ := resultOf_ok hr
    exact ⟨r, rfl, hstatus, herr⟩
  · obtain ⟨hi | hi, -⟩ := resultOf_error he
    · exact absurd hi hunescape
    · exact absurd hi hdecode

/-! ## What stays -/

@[simp] theorem leftBy_params (s : State) (i : Instr) : (leftBy s i).params = s.params := by cases i <;> rfl
@[simp] theorem leftBy_pending (s : State) (i : Instr) : (leftBy s i).pending = s.pending := by cases i <;> rfl
@[simp] theorem leftBy_req (s : State) (i : Instr) : (leftBy s i).req = s.req := by cases i <;> rfl
@[simp] theorem leftBy_toIssue (s : State) (i : Instr) : (leftBy s i).toIssue = s.toIssue := by cases i <;> rfl
@[simp] theorem leftBy_events (s : State) (i : Instr) : (leftBy s i).events = s.events := by cases i <;> rfl
@[simp] theorem leftBy_inbox (s : State) (i : Instr) : (leftBy s i).inbox = s.inbox := by cases i <;> rfl

theorem leftBy_encOut (s : State) (hi : i ≠ .encode) : (leftBy s i).encOut = s.encOut := by
  cases i with
  | encode => exact absurd rfl hi
  | _ => rfl

theorem leftBy_dec (s : State) (hi : i ≠ .decode) : (leftBy s i).dec = s.dec := by
  cases i with
  | decode => exact absurd rfl hi
  | _ => rfl

/-- The state `t` is `s` with the response `x` delivered, but for `SEQ_CTR` and the registers of encoder and decoder. -/
structure Delivers (s t : State) (x : Response) : Prop where
  params : t.params = s.params
  pending : t.pending = s.pending
  req : t.req = s.req
  toIssue : t.toIssue = s.toIssue
  events : t.events = s.events
  rsp : t.rsp = some x
  inbox : t.inbox = s.inbox.set s.req.id (some x)

theorem delivers_raiseError (s : State) (e : CodecError) : Delivers s (s.raiseError e) (errorResponse e) where
  params := s.raiseError_params e
  pending := s.raiseError_pending e
  req := s.raiseError_req e
  toIssue := s.raiseError_toIssue e
  events := s.raiseError_events e
  rsp := s.raiseError_rsp e
  inbox := s.raiseError_inbox e

theorem delivers_leftBy (s : State) (i : Instr) (r : Response) : Delivers s ((leftBy s i).deliver r) r where
  params := leftBy_params s i
  pending := leftBy_pending s i
  req := leftBy_req s i
  toIssue := leftBy_toIssue s i
  events := leftBy_events s i
  rsp := rfl
  inbox := by simp

theorem exec_delivers (h : exec i s = .next t) : ∃ x, Delivers s t x := by
  obtain ⟨r, -, -, rfl⟩ | ⟨e, -, rfl⟩ := exec_next h
  · exact ⟨r, delivers_leftBy s i r⟩
  · exact ⟨errorResponse e, delivers_raiseError s e⟩

theorem allocates_eq_false (hseq : i ≠ .seqNext) (hnew : i ≠ .pktNew) : allocates i = false := by
  cases i with
  | seqNext => exact absurd rfl hseq
  | pktNew => exact absurd rfl hnew
  | _ => rfl

theorem exec_encOut (hi : i ≠ .encode) (h : exec i s = .next t) : t.encOut = s.encOut := by
  obtain ⟨r, -, -, rfl⟩ | ⟨e, -, rfl⟩ := exec_next h
  · exact leftBy_encOut s hi
  · exact s.raiseError_encOut e

theorem exec_dec (hdecode : i ≠ .decode) (hunescape : i ≠ .unescape) (h : exec i s = .next t) : t.dec = s.dec := by
  obtain ⟨r, -, -, rfl⟩ | ⟨e, he, -⟩ := exec_next h
  · exact leftBy_dec s hdecode
  · obtain ⟨hi | hi, -⟩ := resultOf_error he
    · exact absurd hi hunescape
    · exact absurd hi hdecode

/-- Settles O40. -/
theorem operationsLeaveTheRestUnchanged : Obligations.OperationsLeaveTheRestUnchanged := by
  intro i s t h
  obtain ⟨x, hx⟩ := exec_delivers h
  refine ⟨hx.params, hx.pending, hx.req, hx.toIssue, hx.events, ?_, fun k hk => ?_, fun hid => ?_,
    fun hseq hnew => exec_of_not_allocates (allocates_eq_false hseq hnew) h, fun hi => exec_encOut hi h,
    fun hdecode hunescape => exec_dec hdecode hunescape h⟩
  · rw [hx.inbox, List.length_set]
  · rw [hx.inbox, List.getElem?_set_ne hk.symm]
  · rw [hx.inbox, List.getElem?_set_self hid, hx.rsp]

/-- An operation that allocates nothing does not look at the counter. -/
theorem resultOf_of_not_allocates {P : Params} {q : Request} (hi : allocates i = false) (c c' : Byte) :
    resultOf P q c i = resultOf P q c' i := by
  cases i with
  | seqNext | pktNew => cases hi
  | _ => rfl

/-- Settles O41: what `perform` does with the result reads the parameters and the request only. -/
theorem operationsDependOnTheirRequestAlone : Obligations.OperationsDependOnTheirRequestAlone := by
  refine fun i s => ⟨fun t h => ⟨?_, ?_⟩, fun s' hi hparams hreq => ⟨fun t h => ?_, fun x h => ?_⟩⟩
  · obtain ⟨x, hx⟩ := exec_delivers h
    exact hx.req
  · cases hi : allocates i with
    | true => exact (exec_of_allocates hi h).1
    | false => exact exec_of_not_allocates hi h
  · have hs : OperandsWithin s' := by
      have hs := (perform_next (exec_eq_perform i s ▸ h)).1
      rwa [operandsWithin_iff, hparams, hreq]
    have hres : resultOf s'.params s'.req s'.seqCtr i = resultOf s.params s.req s.seqCtr i := by
      rw [hparams, hreq, resultOf_of_not_allocates hi s'.seqCtr s.seqCtr]
    obtain ⟨r, hr, hfit, rfl⟩ | ⟨e, he, rfl⟩ := exec_next h
    · exact ⟨_, exec_of_ok hs (hres.trans hr) (hparams ▸ hfit), rfl⟩
    · exact ⟨_, exec_of_error hs (hres.trans he), by rw [State.raiseError_rsp, State.raiseError_rsp]⟩
  · rw [exec_refused_iff] at h ⊢
    simpa only [OperandsWithin, hparams, hreq] using h

/-! ## Errors, delivered -/

theorem Deliverable.ne_illegalOp {n : Nat} (h : Deliverable n e) (c : Byte) : e ≠ .illegalOp c := fun he => by
  subst he
  exact h

/-- Any error but that of an illegal command word leaves only its response and the loss of the decoder's registers. -/
theorem raised_raiseError (s : State) (he : ∀ c, e ≠ .illegalOp c) :
    Raised s (s.raiseError e) (failure (errorStatus e) (errorRecord e)) := by
  obtain ⟨c, hc, -⟩ | ⟨-, hraise⟩ := raiseError_cases s e
  · exact absurd hc (he c)
  · rw [hraise]
    exact ⟨rfl, rfl⟩

/-- A performed operation whose response is no `OK` has raised an error. -/
theorem exec_next_of_status_ne_ok (h : exec i s = .next t) (hr : t.rsp = some r) (hstatus : r.status ≠ .ok) :
    ∃ e, Deliverable s.req.buf.length e ∧ r = errorResponse e ∧ t = s.raiseError e := by
  obtain ⟨x, hx, -, rfl⟩ | ⟨e, he, rfl⟩ := exec_next h
  · cases hr
    exact absurd (resultOf_ok hx).1 hstatus
  · rw [State.raiseError_rsp] at hr
    cases hr
    exact ⟨e, (resultOf_error he).2, rfl, rfl⟩

/-- Settles O42. -/
theorem errorsAreAnsweredAndLeaveNoTrace : Obligations.ErrorsAreAnsweredAndLeaveNoTrace := by
  intro i s t r h hr hstatus
  obtain ⟨e, he, rfl, rfl⟩ := exec_next_of_status_ne_ok h hr hstatus
  exact ⟨⟨errorRecord e, rfl⟩, raised_raiseError s he.ne_illegalOp⟩

/-- Settles O22: of the errors with a `SUB` that is not delivered, `TRAILING_BYTES` alone is there, and it is not
deliverable. -/
theorem trailingBytesIsNeverDelivered : Obligations.TrailingBytesIsNeverDelivered := by
  intro i s t r x h hr hx
  have hstatus : r.status ≠ .ok := fun hok => by
    obtain ⟨o, ho, -, rfl⟩ | ⟨e, -, rfl⟩ := exec_next h
    · cases hr
      simp [(resultOf_ok ho).2.1] at hx
    · rw [State.raiseError_rsp] at hr
      cases hr
      exact errorStatus_ne_ok e hok
  obtain ⟨e, he, rfl, -⟩ := exec_next_of_status_ne_ok h hr hstatus
  cases hx
  cases e with
  | trailingBytes => exact he.elim
  | _ => simp [errorResponse, errorStatus, errorRecord]

end

/-! ## Lengths -/

/-- A decoded payload is no longer than the data region, which seven bytes at least surround (spec/30_encoding.md
R79). -/
theorem decodeFrame_payload_length {P : Params} {inp : List Byte} {p : Packet} (h : decodeFrame P inp = .ok p) :
    p.payload.length + 7 ≤ inp.length := by
  have hverdict := h ▸ decodeFrame_verdict P inp
  generalize hy : Except.ok p = y at hverdict
  cases hverdict with
  | missingStart hb => cases hy
  | truncated _ hS => cases hy
  | @complete _ data q c e hinp =>
    have hlength := length_of_split hinp
    have hheader := (headerLen_bounds q.flags).1
    rw [← headerLength_eq] at hheader
    rw [fromData_of_split hinp] at hy
    cases hB : unescapeBytes P data (headerLength q.flags) with
    | error x =>
      rw [hB] at hy
      cases hy
    | ok B =>
      have hle := unescapeBytes_length_le hB
      rw [hB] at hy
      simp only [bind, Except.bind] at hy
      split_ifs at hy
      cases hy
      show B.length + 7 ≤ inp.length
      omega

/-- Settles O46: an error delivers no buffer and no packet, and of the results of the four operations each has its own
bound. -/
theorem outputLengthBounds : Obligations.OutputLengthBounds := by
  intro i s t r h hr
  obtain ⟨x, hx, -, rfl⟩ | ⟨e, -, rfl⟩ := exec_next h
  · cases hr
    refine ⟨fun B hB => ⟨?_, ?_, ?_⟩, fun p hp => ?_⟩ <;> rintro rfl
    · cases hx
      cases hB
      exact escapeBytes_length_le ..
    · cases hU : unescapeBytes s.params s.req.buf 0 <;> rw [resultOf, hU] at hx <;> cases hx
      cases hB
      exact unescapeBytes_length_le hU
    · cases hx
      cases hB
      exact (encodeFrame_length_bounds ..).2
    · cases hD : decodeFrame s.params s.req.buf <;> rw [resultOf, hD] at hx <;> cases hx
      cases hp
      exact decodeFrame_payload_length hD
  · rw [State.raiseError_rsp] at hr
    cases hr
    exact ⟨fun B hB => (nomatch hB), fun p hp => (nomatch hp)⟩

end Sys2Proof.Machine
end

section
/-! PROOFS. Each operation on operands within `MAX_LEN`: what it delivers with `OK`, and how `UNESCAPE` and `DECODE`
fail (spec/40_flags_nodes.md to spec/45_decoder.md). -/

namespace Sys2Proof.Machine

open Sys2Proof.Claims

/-! ## Flag Set and Node Address -/

/-- Settles O4. -/
theorem flagsUnionAnswersTheUnion : Obligations.FlagsUnionAnswersTheUnion :=
  ⟨decode_encode .flagsUnion, fun _ hs => exec_of_ok hs rfl rfl⟩

theorem flagsTest_eq_ite (a : Byte) (i : BitVec 3) : flagsTest a i = if a.getLsbD i.toNat then 0x01 else 0x00 := by
  unfold flagsTest
  cases a.getLsbD i.toNat <;> rfl

/-- Settles O5. -/
theorem flagsTestAnswersTheBit : Obligations.FlagsTestAnswersTheBit := by
  refine fun i s hs => ⟨encode_flagsTest i ▸ decode_encode (.flagsTest i), ?_⟩
  rw [← flagsTest_eq_ite]
  exact exec_of_ok hs rfl rfl

/-- Settles O6. -/
theorem flagByteConversionsAreTheIdentity : Obligations.FlagByteConversionsAreTheIdentity :=
  ⟨decode_encode .flagsFromByte, decode_encode .flagsToByte,
    fun _ hs => ⟨exec_of_ok hs rfl rfl, exec_of_ok hs rfl rfl⟩⟩

theorem lowNibble_toNat (b : Byte) : (lowNibble b).toNat = b.toNat % 16 := by
  simp [lowNibble]

theorem highNibble_toNat (b : Byte) : (highNibble b).toNat = b.toNat / 16 := by
  have hb := b.isLt
  simp only [highNibble, BitVec.extractLsb'_toNat, Nat.shiftRight_eq_div_pow]
  omega

theorem zextNibble_eq_ofNat {n : BitVec 4} {k : Nat} (h : n.toNat = k) : zextNibble n = BitVec.ofNat 8 k := by
  rw [zextNibble, ← h]
  exact (BitVec.ofNat_toNat 8 n).symm

theorem packNode_operands (q : Request) :
    packNode (portOperand q) (nodeOperand q) = BitVec.ofNat 8 (16 * (q.a.toNat % 16) + q.b.toNat % 16) := by
  apply BitVec.eq_of_toNat_eq
  rw [packNode_toNat, portOperand, nodeOperand, lowNibble_toNat, lowNibble_toNat, BitVec.toNat_ofNat]
  omega

/-- Settles O7. -/
theorem nodePackJoinsTheNibbles : Obligations.NodePackJoinsTheNibbles := by
  refine ⟨decode_encode .nodePack, fun s hs => ?_⟩
  rw [← packNode_operands]
  exact exec_of_ok hs rfl rfl

/-- Settles O8. -/
theorem nodeUnpackSplitsTheByte : Obligations.NodeUnpackSplitsTheByte := by
  refine ⟨decode_encode .nodeUnpack, fun s hs => ?_⟩
  rw [← zextNibble_eq_ofNat (highNibble_toNat s.req.a), ← zextNibble_eq_ofNat (lowNibble_toNat s.req.a)]
  exact exec_of_ok hs rfl rfl

/-! ## Sequence Generator and packet construction -/

theorem nextSeq_eq_ofNat (c : Byte) : nextSeq c = BitVec.ofNat 8 ((c.toNat + 1) % 256) := by
  apply BitVec.eq_of_toNat_eq
  simp [nextSeq]

/-- Settles O9. -/
theorem seqNextIncrementsAndAnswers : Obligations.SeqNextIncrementsAndAnswers := by
  refine ⟨decode_encode .seqNext, fun s hs => ?_⟩
  rw [← nextSeq_eq_ofNat]
  exact exec_of_ok hs rfl rfl

theorem outputFits_pkt {P : Params} {p : Packet} :
    outputFits P { status := .ok, pkt := some p } = true ↔ WithinMaxLen P p.payload.length := by
  simp [outputFits, withinMaxLen_iff]

theorem outputFits_buf {P : Params} {B : List Byte} :
    outputFits P { status := .ok, buf := some B } = true ↔ WithinMaxLen P B.length := by
  simp [outputFits, withinMaxLen_iff]

theorem exec_pktNew {s : State} (hs : OperandsWithin s) :
    exec .pktNew s = .next ((s.withSeq (nextSeq s.seqCtr)).deliver
      { status := .ok, pkt := some (newPacket s.req (nextSeq s.seqCtr)) }) :=
  exec_of_ok hs rfl (outputFits_pkt.2 hs.1)

/-- Settles O10. -/
theorem pktNewBuildsAPacket : Obligations.PktNewBuildsAPacket := by
  refine ⟨decode_encode .pktNew, fun s hs => ?_⟩
  rw [exec_pktNew hs, newPacket, defaultFlags_eq]
  rfl

/-- Settles O11. -/
theorem pktWithSourceAttaches : Obligations.PktWithSourceAttaches :=
  ⟨decode_encode .pktWithSource, fun _ hs => exec_of_ok hs rfl (outputFits_pkt.2 hs.2)⟩

/-- Settles O12. -/
theorem pktWithTargetAttaches : Obligations.PktWithTargetAttaches :=
  ⟨decode_encode .pktWithTarget, fun _ hs => exec_of_ok hs rfl (outputFits_pkt.2 hs.2)⟩

/-! ## Escaper -/

/-- Settles O13. -/
theorem escapeAnswersTheEscapedBytes : Obligations.EscapeAnswersTheEscapedBytes := by
  refine ⟨decode_encode .escape, fun s hs => ⟨fun hfit => ?_, fun hlong => ?_⟩⟩
  · rw [← escapeBytes_eq_escaped] at hfit ⊢
    exact exec_of_ok hs rfl (outputFits_buf.2 hfit)
  · exact exec_escape_refused_iff.2 ⟨rfl, .inr hlong⟩

section

variable {P : Params}

/-- The scan passes over an escaped sequence, and goes on with what stands behind it. -/
theorem unescapeBytes_append (hP : P.wellFormed = true) (B rest : List Byte) (base : Nat) :
    unescapeBytes P (escapeBytes P B ++ rest) base =
      (unescapeBytes P rest (base + (escapeBytes P B).length)).map (B ++ ·) := by
  have hcomp (b : Byte) (B : List Byte) (e : Except CodecError (List Byte)) :
      (e.map (B ++ ·)).map (b :: ·) = e.map (b :: B ++ ·) := by cases e <;> rfl
  induction B generalizing base with
  | nil => cases h : unescapeBytes P rest base <;> simp [escapeBytes, h, Except.map]
  | cons b B ih =>
    obtain ⟨hb, heq⟩ | ⟨c, -, hc, heq⟩ := escapeByte_cases hP b <;> rw [escapeBytes, heq]
    · obtain ⟨hstart, hend, hesc⟩ := reserved_eq_false_iff.1 hb
      rw [List.singleton_append, List.cons_append, unescapeBytes_plain hesc hstart hend, ih, hcomp, List.length_cons,
        Nat.add_right_comm, Nat.add_assoc]
    · rw [List.cons_append, List.singleton_append, List.cons_append, List.cons_append, unescapeBytes_pair hc, ih, hcomp,
        List.length_cons, List.length_cons, Nat.add_right_comm, Nat.add_assoc]

theorem codeMarker_eq_none {c : Byte} (hc : ¬(c = P.escCodeStart ∨ c = P.escCodeEnd ∨ c = P.escCodeEsc)) :
    codeMarker P c = none := by
  cases hm : codeMarker P c with
  | none => rfl
  | some m => exact absurd (eq_code_of_codeMarker hm) hc

/-- The scan stops at an illegal pattern and reports it where it stands (spec/30_encoding.md R82, R86). -/
theorem unescapeBytes_of_illegalPattern {rest : List Byte} {sub : BitVec 2} {actual : Option Byte}
    (h : illegalPattern P rest = some (sub, actual)) (base : Nat) :
    ∃ x, unescapeBytes P rest base = .error x ∧ errorStatus x = .malformedEscape ∧
      errorRecord x = ⟨sub, some base, none, actual, none⟩ := by
  cases rest with
  | nil => cases h
  | cons b C =>
    by_cases hesc : b = P.escMarker
    · subst hesc
      cases C with
      | nil =>
        obtain ⟨rfl, rfl⟩ : 1 = sub ∧ none = actual := by simpa [illegalPattern] using h
        exact ⟨_, unescapeBytes_trailing P base, rfl, rfl⟩
      | cons c D =>
        obtain ⟨hc, rfl, rfl⟩ : ¬(c = P.escCodeStart ∨ c = P.escCodeEnd ∨ c = P.escCodeEsc) ∧ 0 = sub ∧
          some c = actual := by simpa [illegalPattern] using h
        exact ⟨_, unescapeBytes_badCode (codeMarker_eq_none hc) D base, rfl, rfl⟩
    · obtain ⟨hraw, rfl, rfl⟩ : (b = P.startMarker ∨ b = P.endMarker) ∧ 2 = sub ∧ some b = actual := by
        simpa [illegalPattern, hesc] using h
      exact ⟨_, unescapeBytes_raw hesc hraw C base, rfl, rfl⟩

/-- An escaped sequence with an illegal pattern behind it does not unescape, and the pattern is what is reported. -/
theorem unescapeBytes_escaped_illegal (hP : P.wellFormed = true) (B : List Byte) {rest : List Byte} {sub : BitVec 2}
    {actual : Option Byte} (h : illegalPattern P rest = some (sub, actual)) (base : Nat) :
    ∃ x, unescapeBytes P (escaped P B ++ rest) base = .error x ∧ errorStatus x = .malformedEscape ∧
      errorRecord x = ⟨sub, some (base + (escaped P B).length), none, actual, none⟩ := by
  rw [← escapeBytes_eq_escaped]
  obtain ⟨x, hx, hstatus, hrecord⟩ := unescapeBytes_of_illegalPattern h (base + (escapeBytes P B).length)
  exact ⟨x, by rw [unescapeBytes_append hP, hx]; rfl, hstatus, hrecord⟩

/-- R173: a sequence is an escaped one, or an escaped one with an illegal pattern behind it. -/
theorem escaped_or_illegal (hP : P.wellFormed = true) (C : List Byte) :
    (∃ B, C = escaped P B) ∨ ∃ B rest x, C = escaped P B ++ rest ∧ illegalPattern P rest = some x := by
  simp only [← escapeBytes_eq_escaped]
  cases h : unescapeBytes P C 0 with
  | ok B => exact .inl ⟨B, (escapeBytes_of_unescapeBytes hP h).symm⟩
  | error x => exact .inr (unescapeBytes_error hP h).2

/-- An escaped sequence unescapes, so it is not of the other kind. -/
theorem not_escaped_and_illegal (hP : P.wellFormed = true) (C : List Byte) :
    ¬((∃ B, C = escaped P B) ∧ ∃ B rest x, C = escaped P B ++ rest ∧ illegalPattern P rest = some x) := by
  rintro ⟨⟨D, rfl⟩, B, rest, ⟨sub, actual⟩, heq, hrest⟩
  obtain ⟨x, hx, -⟩ := unescapeBytes_escaped_illegal hP B hrest 0
  rw [← heq, ← escapeBytes_eq_escaped, unescapeBytes_escapeBytes hP] at hx
  cases hx

end

/-- An operation that has an error from `UNESCAPE` or `DECODE` raises it. -/
theorem exec_raises {i : Instr} {s : State} {e : CodecError} (hs : OperandsWithin s)
    (he : resultOf s.params s.req s.seqCtr i = .error e) :
    ∃ t, exec i s = .next t ∧ Raised s t (failure (errorStatus e) (errorRecord e)) :=
  ⟨_, exec_of_error hs he, raised_raiseError s (resultOf_error he).2.ne_illegalOp⟩

/-- Settles O14. -/
theorem unescapeRestoresOrReportsTheFirstIllegalPattern :
    Obligations.UnescapeRestoresOrReportsTheFirstIllegalPattern := by
  refine ⟨decode_encode .unescape, fun s B hP hs hbuf => ?_, fun s B rest sub actual hP hs hbuf hrest => ?_,
    fun P C hP => ⟨escaped_or_illegal hP C, not_escaped_and_illegal hP C⟩⟩
  · have hB : unescapeBytes s.params s.req.buf 0 = .ok B := by
      rw [hbuf, ← escapeBytes_eq_escaped, unescapeBytes_escapeBytes hP]
    have hfit := fits_mono (unescapeBytes_length_le hB) (withinMaxLen_iff.1 hs.1)
    exact exec_of_ok hs (by rw [resultOf, hB]; rfl) (outputFits_buf.2 (withinMaxLen_iff.2 hfit))
  · obtain ⟨x, hx, hstatus, hrecord⟩ := unescapeBytes_escaped_illegal hP B hrest 0
    rw [Nat.zero_add] at hrecord
    rw [← hstatus, ← hrecord]
    exact exec_raises hs (by rw [resultOf, hbuf, hx]; rfl)

/-! ## Checksum and Encoder -/

/-- Settles O15. -/
theorem checksumAnswersTheComplementedSum : Obligations.ChecksumAnswersTheComplementedSum := by
  refine ⟨decode_encode .checksum, fun s hs => ?_⟩
  rw [← checksumBytes_eq_complementOfSum]
  exact exec_of_ok hs rfl rfl

/-- Settles O16. -/
theorem encodeAnswersTheFrame : Obligations.EncodeAnswersTheFrame := by
  refine ⟨decode_encode .encode, fun s hs => ⟨fun hfit => ?_, fun hlong => ?_⟩⟩
  · rw [frameOf_eq_encodeFrame] at hfit ⊢
    exact ⟨_, exec_of_ok hs rfl (outputFits_buf.2 hfit), rfl⟩
  · exact exec_encode_refused_iff.2 ⟨rfl, .inr hlong⟩

/-! ## Decoder -/

theorem presentByte_inj {c : Bool} {v w : Byte} (h : presentByte c v = presentByte c w) :
    (if c then v else 0) = if c then w else 0 := by
  cases c with
  | true => exact List.singleton_inj.1 h
  | false => rfl

/-- Two headers with the same bytes are of records that agree in every field that is there. -/
theorem canonical_eq_of_headerOf_eq {p q : Packet} (h : headerOf p = headerOf q) (hpayload : p.payload = q.payload) :
    canonical p = canonical q := by
  obtain ⟨f, tgt, src, dev, cmd, seq, err, B⟩ := p
  obtain ⟨f', tgt', src', dev', cmd', seq', err', B'⟩ := q
  obtain rfl : B = B' := hpayload
  obtain ⟨rfl, h⟩ : f = f' ∧ _ := List.cons.inj h
  obtain ⟨h, herr⟩ := List.append_inj' h (by simp)
  obtain ⟨h, hfixed⟩ := List.append_inj' h rfl
  obtain ⟨htgt, hsrc⟩ := List.append_inj' h (by simp)
  cases hfixed
  simp only [canonical, presentByte_inj htgt, presentByte_inj hsrc, presentByte_inj herr]

/-- A frame determines the canonical form of its record (spec/10_state.md R26). -/
theorem canonical_eq_of_encodeFrame_eq {P : Params} (hP : P.wellFormed = true) {p q : Packet}
    (h : encodeFrame P p = encodeFrame P q) : canonical p = canonical q := by
  rw [encodeFrame_eq, encodeFrame_eq] at h
  obtain ⟨hbody, -⟩ := body_append_inj h
  have hflags : p.flags = q.flags := (List.cons.inj hbody).1
  have hlength : (headerOf p).length = (headerOf q).length := by
    have hp := headerOf_length p
    have hq := headerOf_length q
    rw [hflags] at hp
    omega
  obtain ⟨hheader, hdata⟩ := List.append_inj hbody hlength
  have hpayload := unescapeBytes_escapeBytes hP p.payload 0
  rw [escapeBytes_eq_escaped, hdata, ← escapeBytes_eq_escaped, unescapeBytes_escapeBytes hP] at hpayload
  exact canonical_eq_of_headerOf_eq hheader (Except.ok.inj hpayload).symm

/-- Settles O17: no check rejects a frame, and a record with the same frame and its absent fields 0x00 is the canonical
one. -/
theorem decodeOfAFrameAnswersThePacket : Obligations.DecodeOfAFrameAnswersThePacket := by
  refine ⟨decode_encode .decode, fun s p hP hs hbuf => ?_⟩
  obtain ⟨q, hnext, hcanon, hframe⟩ | ⟨e, -, hrej⟩ := exec_decode_answers hP hs
  · have hq : canonical q = canonical p := canonical_eq_of_encodeFrame_eq hP (hframe.symm.trans hbuf)
    rw [hcanon] at hq
    exact ⟨_, hnext, hq ▸ rfl, rfl⟩
  · exact absurd (hbuf ▸ hrej) (not_rejected_encodeFrame hP p e)

theorem exec_decode_raises {s : State} {e : CodecError} (hs : OperandsWithin s)
    (he : decodeFrame s.params s.req.buf = .error e) :
    ∃ t, exec .decode s = .next t ∧ Raised s t (failure (errorStatus e) (errorRecord e)) :=
  exec_raises hs (by rw [resultOf, he]; rfl)

/-- Settles O18. -/
theorem decodeReportsTheMissingStart : Obligations.DecodeReportsTheMissingStart := by
  intro s b rest hs hbuf hb
  have hx := decodeFrame_missingStart hb rest
  rw [← hbuf] at hx
  exact exec_decode_raises hs hx

/-- Settles O19. -/
theorem decodeReportsTruncation : Obligations.DecodeReportsTruncation := by
  intro s code hs h
  obtain ⟨S, rfl, hx⟩ := decodeFrame_of_truncatedAt h
  exact exec_decode_raises hs hx

/-- Settles O20. -/
theorem decodeReportsTheMalformedEscape : Obligations.DecodeReportsTheMalformedEscape := by
  intro s flags c e B rest sub actual hP hs hparts hrest
  obtain ⟨x, hx, hstatus, hrecord⟩ := unescapeBytes_escaped_illegal hP B hrest (headerLength flags)
  obtain ⟨p, hinp, rfl, hdecode⟩ := decodeFrame_of_parts hparts
  rw [fromData_of_split hinp, hx] at hdecode
  rw [← hstatus, ← hrecord]
  exact exec_decode_raises hs hdecode

/-- Settles O21. -/
theorem decodeReportsTheSuffix : Obligations.DecodeReportsTheSuffix := by
  intro s flags c e B hP hs hparts
  obtain ⟨p, hinp, rfl, hdecode⟩ := decodeFrame_of_parts hparts
  rw [fromData_of_split hinp, ← escapeBytes_eq_escaped, unescapeBytes_escapeBytes hP,
    checksumBytes_eq_complementOfSum] at hdecode
  refine ⟨fun hc => ?_, fun hc he => ?_⟩
  · exact exec_decode_raises hs (hdecode.trans (if_pos hc))
  · exact exec_decode_raises hs (hdecode.trans ((if_neg (not_not.2 hc)).trans (if_pos he)))

end Sys2Proof.Machine
end

section
/-! PROOFS. The reading of command words (spec/30_encoding.md section 1), the response fields that are there (section
2 and section 6), and what of a record has no effect on its frame (spec/44_encoder.md). -/

namespace Sys2Proof.Machine

open Sys2Proof.Claims

/-! ## Command words -/

/-- Only the reserved `OP` selects no row (spec/30_encoding.md R72). -/
theorem opRow_eq_none_iff : ∀ (op : BitVec 4) (imm : BitVec 3), opRow op imm = none ↔ op = 0x0 := by
  decide

/-- The row that `OP` selects is the operation with this code; of the immediate only `FLAGS_TEST` holds anything. -/
theorem opRow_fields : ∀ (op : BitVec 4) (imm : BitVec 3), ∀ i ∈ opRow op imm,
    opCode i = op ∧ (¬(imm ≠ 0 ∧ op ≠ 0x2) → immField i = imm) := by
  decide

/-- A command word is legal when its row is there, `RSV` is 0, and `IMM` is used or 0 (spec/30_encoding.md R73). -/
theorem decode_eq_ok_iff {c : Byte} {i : Instr} :
    decode c = .ok i ↔
      opRow (cmdOp c) (cmdImm c) = some i ∧ cmdRsv c = false ∧ ¬(cmdImm c ≠ 0 ∧ cmdOp c ≠ 0x2) := by
  unfold decode
  cases opRow (cmdOp c) (cmdImm c) with
  | none => simp
  | some j =>
    dsimp only
    split_ifs with hrsv himm
    · exact iff_of_false nofun fun ⟨_, hclear, _⟩ => by simp [hrsv] at hclear
    · exact iff_of_false nofun fun ⟨_, _, hnot⟩ => hnot himm
    · simp only [Except.ok.injEq, Option.some.injEq, iff_self_and]
      exact fun _ => ⟨eq_false_of_ne_true hrsv, himm⟩

theorem legalCommand_iff {c : Byte} : legalCommand c = true ↔ ∃ i, decode c = .ok i := by
  unfold legalCommand
  cases decode c <;> simp

theorem exists_error_of_illegal {c : Byte} (h : legalCommand c = false) : ∃ e, decode c = .error e := by
  unfold legalCommand at h
  cases hdec : decode c with
  | ok i => simp [hdec] at h
  | error e => exact ⟨e, rfl⟩

theorem cmdOp_toNat (c : Byte) : (cmdOp c).toNat = c.toNat % 16 := by
  simp [cmdOp]

theorem cmdImm_toNat (c : Byte) : (cmdImm c).toNat = c.toNat / 16 % 8 := by
  simp [cmdImm, Nat.shiftRight_eq_div_pow]

/-- A command word is its three fields joined (spec/30_encoding.md R71). -/
theorem fields_append : ∀ c : Byte, BitVec.ofBool (cmdRsv c) ++ cmdImm c ++ cmdOp c = c := by
  decide

theorem encode_of_decode {c : Byte} {i : Instr} (h : decode c = .ok i) : encode i = c := by
  obtain ⟨hrow, hrsv, himm⟩ := decode_eq_ok_iff.1 h
  obtain ⟨hop, hfield⟩ := opRow_fields _ _ i hrow
  have hc := fields_append c
  rw [hrsv] at hc
  rw [encode, hop, hfield himm]
  exact hc

/-- Settles O2. -/
theorem commandWordsRoundTrip : Obligations.CommandWordsRoundTrip := ⟨decode_encode, fun _ _ => encode_of_decode⟩

/-- R73: the three conditions that make a command word illegal. -/
theorem legalCommand_eq_false_iff (c : Byte) :
    legalCommand c = false ↔
      c.toNat % 16 = 0 ∨ c.getLsbD 7 = true ∨ (c.toNat / 16 % 8 ≠ 0 ∧ c.toNat % 16 ≠ 2) := by
  have hop : cmdOp c = 0x0 ↔ c.toNat % 16 = 0 := by rw [← BitVec.toNat_inj, cmdOp_toNat]; rfl
  have htest : cmdOp c = 0x2 ↔ c.toNat % 16 = 2 := by rw [← BitVec.toNat_inj, cmdOp_toNat]; rfl
  have himm : cmdImm c = 0 ↔ c.toNat / 16 % 8 = 0 := by rw [← BitVec.toNat_inj, cmdImm_toNat]; rfl
  have hlegal : legalCommand c = true ↔
      cmdOp c ≠ 0x0 ∧ cmdRsv c = false ∧ ¬(cmdImm c ≠ 0 ∧ cmdOp c ≠ 0x2) := by
    simp only [legalCommand_iff, decode_eq_ok_iff, exists_and_right, ← Option.isSome_iff_exists,
      ← Option.ne_none_iff_isSome, Ne, opRow_eq_none_iff]
  rw [← Bool.not_eq_true, hlegal]
  simp only [ne_eq, ← hop, ← htest, ← himm, cmdRsv, ← Bool.not_eq_true, Classical.not_and_iff_not_or_not, not_or,
    not_not]

/-- Whether the numeral `n` is a legal command word, by R73's conditions. -/
theorem legalCommand_ofNat {n : Nat} (hn : n < 256) :
    legalCommand (BitVec.ofNat 8 n) = !decide (n % 16 = 0 ∨ n.testBit 7 = true ∨ (n / 16 % 8 ≠ 0 ∧ n % 16 ≠ 2)) := by
  have h := legalCommand_eq_false_iff (BitVec.ofNat 8 n)
  rw [BitVec.toNat_ofNat, Nat.mod_eq_of_lt hn, BitVec.getLsbD_ofNat] at h
  rw [Bool.eq_iff_iff, Bool.not_eq_true', decide_eq_false_iff_not]
  exact (Bool.not_eq_false _).symm.to_iff.trans (not_congr h)

theorem count_legalCommand : (List.range 256).countP (fun n => legalCommand (BitVec.ofNat 8 n)) = 22 := by
  rw [List.countP_congr fun n hn => by rw [legalCommand_ofNat (List.mem_range.1 hn)]]
  decide +kernel

theorem performRequest_of_illegal {s : State} {id : Nat} {r : Request} (h : legalCommand r.cmd = false) :
    performRequest s id r =
      .next (delivered (taken s id r) (failure .illegalOp ⟨0, none, none, some r.cmd, none⟩)) := by
  obtain ⟨e, he⟩ := exists_error_of_illegal h
  exact performRequest_illegal he

/-- Settles O3. -/
theorem illegalCommandWordsAreAnswered : Obligations.IllegalCommandWordsAreAnswered :=
  ⟨legalCommand_eq_false_iff, count_legalCommand, fun _ _ _ => performRequest_of_illegal⟩

/-! ## Fields of a response -/

/-- A field reads as the table says when it is there exactly when the table says so. -/
theorem reads_iff {α : Type} {there : Bool} {field : Option α} : Reads there field ↔ field.isSome = there := by
  cases there <;> cases field <;> simp [Reads, readField]

/-- The error records written, field by field (spec/60_exceptions.md R265). -/
theorem errorRecord_fields {e : CodecError} (he : ∀ k, e ≠ .trailingBytes k) :
    (errorRecord e).offset.isSome = (errFieldsOf (errorStatus e) (errorRecord e).sub).offset ∧
    (errorRecord e).expected.isSome = (errFieldsOf (errorStatus e) (errorRecord e).sub).expected ∧
    (errorRecord e).actual.isSome = (errFieldsOf (errorStatus e) (errorRecord e).sub).actual ∧
    (errorRecord e).needed.isSome = (errFieldsOf (errorStatus e) (errorRecord e).sub).needed := by
  cases e with
  | trailingBytes k => exact absurd rfl (he k)
  | _ => exact ⟨rfl, rfl, rfl, rfl⟩

/-- What stands at the response interface after a request is performed: the results of its operation, or an error record
alone. -/
theorem performRequest_rsp {s t : State} {id : Nat} {q : Request} {r : Response} (h : performRequest s id q = .next t)
    (hr : t.rsp = some r) :
    (∃ i, decode q.cmd = .ok i ∧ resultOf s.params q s.seqCtr i = .ok r) ∨
      ∃ e, (∀ k, e ≠ .trailingBytes k) ∧ r = errorResponse e := by
  cases hdec : decode q.cmd with
  | error x =>
    rw [performRequest_illegal hdec] at h
    cases h
    cases hr
    exact .inr ⟨.illegalOp q.cmd, by simp, rfl⟩
  | ok i =>
    rw [performRequest_legal hdec] at h
    obtain ⟨o, ho, -, rfl⟩ | ⟨e, he, rfl⟩ := exec_next h
    · cases hr
      exact .inl ⟨i, rfl, ho⟩
    · rw [State.raiseError_rsp] at hr
      cases hr
      refine .inr ⟨e, fun k hk => ?_, rfl⟩
      subst hk
      exact (resultOf_error he).2

/-- Settles O47. -/
theorem absentFieldsFault : Obligations.AbsentFieldsFault := by
  refine ⟨fun s t id q r h hr => ?_, fun e => ⟨rfl, rfl, rfl, rfl, rfl⟩, fun s t r h hr => ?_⟩
  · obtain ⟨i, hdec, ho⟩ | ⟨e, he, rfl⟩ := performRequest_rsp h hr
    · obtain ⟨hstatus, herr, h0, h1, hpkt, hbuf⟩ := resultOf_ok ho
      refine ⟨fun _ => ⟨i, hdec, reads_iff.2 h0, reads_iff.2 h1, reads_iff.2 hpkt, reads_iff.2 hbuf, ?_⟩,
        fun hne => absurd hstatus hne⟩
      rw [herr]
      exact reads_iff.2 rfl
    · obtain ⟨hoffset, hexpected, hactual, hneeded⟩ := errorRecord_fields he
      exact ⟨fun hok => absurd hok (errorStatus_ne_ok e), fun _ => ⟨reads_iff.2 rfl, reads_iff.2 rfl, reads_iff.2 rfl,
        reads_iff.2 rfl, errorRecord e, rfl, reads_iff.2 hoffset, reads_iff.2 hexpected, reads_iff.2 hactual,
        reads_iff.2 hneeded⟩⟩
  · cases hr.symm.trans (answer_rsp h)
    exact ⟨rfl, rfl, rfl, rfl, rfl⟩

/-! ## What has no effect on a frame -/

theorem getLsbD_of_and_mask {f g : Byte} (h : g &&& 0x31 = f &&& 0x31) {i : Nat}
    (hi : (0x31 : Byte).getLsbD i = true) : g.getLsbD i = f.getLsbD i := by
  have hbit : (g &&& 0x31).getLsbD i = (f &&& 0x31).getLsbD i := by rw [h]
  rwa [BitVec.getLsbD_and, BitVec.getLsbD_and, hi, Bool.and_true, Bool.and_true] at hbit

/-- Settles O35: behind the flags byte a header looks at bits 0, 4 and 5 only. -/
theorem otherFlagBitsAreOnlyCarried : Obligations.OtherFlagBitsAreOnlyCarried := by
  intro P p g h
  have h0 : g.getLsbD 0 = p.flags.getLsbD 0 := getLsbD_of_and_mask h rfl
  have h4 : g.getLsbD 4 = p.flags.getLsbD 4 := getLsbD_of_and_mask h rfl
  have h5 : g.getLsbD 5 = p.flags.getLsbD 5 := getLsbD_of_and_mask h rfl
  rw [encodeBody_eq, encodeBody_eq, bodyOf, bodyOf, headerOf, headerOf]
  dsimp only
  rw [h0, h4, h5]
  rfl

/-- A header holds no byte of an absent field. -/
theorem headerOf_canonical (p : Packet) : headerOf (canonical p) = headerOf p := by
  simp only [headerOf, canonical_eq_canon, canon, ← hasFlag_hasTarget, ← hasFlag_hasSource, ← hasFlag_isResponse,
    presentByte_presentOrZero]

theorem encodeFrame_canonical (P : Params) (p : Packet) : encodeFrame P (canonical p) = encodeFrame P p := by
  have hbody : bodyOf P (canonical p) = bodyOf P p := by
    rw [bodyOf, headerOf_canonical]
    rfl
  rw [encodeFrame_eq, encodeFrame_eq, hbody]

/-- Settles O36. -/
theorem absentFieldsAreIgnored : Obligations.AbsentFieldsAreIgnored := fun P p q h => by
  rw [← encodeFrame_canonical, h, encodeFrame_canonical]

end Sys2Proof.Machine
end

section
/-! PROOFS. The engine and the agents around it: that every step answers, which request a step performs, and what a
step does to the pending set and to `SEQ_CTR` (spec/20_memory.md section 5, spec/60_exceptions.md section 6). -/

namespace Sys2Proof.Machine

open Sys2Proof.Claims

section

variable {s s' t : State} {id : Nat} {r : Request}

/-! ## One request -/

/-- The request performed leaves its slot and `REQ` holds it; its response is delivered. -/
theorem performRequest_delivers (h : performRequest s id r = .next t) : ∃ x, Delivers (s.accept id r) t x := by
  cases hdec : decode r.cmd with
  | ok i =>
    rw [performRequest_legal hdec] at h
    exact exec_delivers h
  | error e =>
    rw [performRequest_illegal hdec] at h
    cases h
    exact ⟨_, delivers_raiseError ..⟩

/-- Whether the engine has a step for a request is a matter of the request and the parameters. -/
theorem hasStep_congr (hparams : s'.params = s.params) (id' id : Nat) (r : Request) :
    hasStep s' id' r = hasStep s id r := by
  rw [Bool.eq_iff_iff, ← not_iff_not, Bool.not_eq_true, Bool.not_eq_true, hasStep_eq_false, hasStep_eq_false]
  cases hdec : decode r.cmd with
  | error e => simp [performRequest_illegal hdec]
  | ok i =>
    simp only [performRequest_legal hdec, exec_refused_iff, OperandsWithin, State.accept_params, State.accept_req,
      hparams]

theorem performRequest_ne_fault (f : Fault) : performRequest s id r ≠ .fault f := by
  cases hdec : decode r.cmd with
  | ok i =>
    rw [performRequest_legal hdec]
    exact exec_ne_fault f
  | error e => simp [performRequest_illegal hdec]

theorem performRequest_refused {x : Refusal} (h : performRequest s id r = .refused x) : x = .lengthExceeded := by
  cases hdec : decode r.cmd with
  | ok i =>
    rw [performRequest_legal hdec] at h
    exact ((exec_refused_iff ..).1 h).1
  | error e => simp [performRequest_illegal hdec] at h

/-- A request the engine has a step for is performed. -/
theorem performRequest_of_hasStep (h : hasStep s id r = true) : ∃ t, performRequest s id r = .next t := by
  cases hp : performRequest s id r with
  | next t => exact ⟨t, rfl⟩
  | fault f => exact absurd hp (performRequest_ne_fault f)
  | refused x =>
    rw [performRequest_refused hp] at hp
    simp [hasStep_eq_false.2 hp] at h

/-- The free-value counter has no say in it. -/
theorem performRequest_at_tick (h : hasStep s id r = true) (n : Nat) :
    ∃ t, performRequest { s with freeTick := n } id r = .next t :=
  performRequest_of_hasStep ((hasStep_congr (s' := { s with freeTick := n }) (s := s) rfl id id r).trans h)

/-! ## A move of the engine -/

/-- A move of the engine performs a pending request it has a step for; `n` is the free-value counter, which a choice
advances first. With no such request it waits. -/
theorem engineMove_waits_or_performs (s : State) :
    ((∀ id r, Pending s id r → hasStep s id r = false) ∧ engineMove s = .next s) ∨
    ∃ id r n, Pending s id r ∧ hasStep s id r = true ∧
      engineMove s = performRequest { s with freeTick := n } id r := by
  obtain ⟨hnone, hmove⟩ | ⟨id, r, hone, hmove⟩ | ⟨id, r, -, hmem, hmove⟩ := engineMove_cases s
  · refine .inl ⟨fun id r hr => eq_false_of_ne_true fun hs => ?_, hmove⟩
    have hmem := mem_candidates.2 ⟨hr, hs⟩
    rw [hnone] at hmem
    cases hmem
  · obtain ⟨hr, hs⟩ := mem_candidates.1 (hone ▸ List.mem_singleton.2 rfl)
    exact .inr ⟨id, r, s.freeTick, hr, hs, hmove⟩
  · obtain ⟨hr, hs⟩ := mem_candidates.1 hmem
    exact .inr ⟨id, r, s.freeTick + 1, hr, hs, hmove⟩

theorem step_of_no_events (h : s.events = []) : step s = engineMove s := by
  simp only [step, engineStep, h]

theorem step_of_perform {es : List Event} (h : s.events = .perform id :: es) :
    step s = performEvent { s with events := es } id := by
  simp only [step, engineStep, h, State.dropEvent, List.tail_cons]

theorem step_of_issue {es : List Event} (h : s.events = .issue id :: es) :
    step s = .next ({ s with events := es }.issue id) := by
  simp only [step, engineStep, h, State.dropEvent, List.tail_cons]

theorem step_of_reset {es : List Event} (h : s.events = .reset :: es) :
    step s = .next { s with events := es }.resetBlock := by
  simp only [step, engineStep, h, State.dropEvent, List.tail_cons]

/-- Settles O51. -/
theorem enginePerformsOneOfThePending : Obligations.EnginePerformsOneOfThePending := by
  rintro s hevents ⟨id, r, hr, hs⟩
  rw [step_of_no_events hevents]
  obtain ⟨hnone, -⟩ | hperforms := engineMove_waits_or_performs s
  · simp [hnone id r hr] at hs
  · exact hperforms

theorem pendingRequests_nodup (s : State) : (pendingRequests s).Nodup := by
  refine List.Nodup.filterMap ?_ (List.Nodup.of_map Prod.snd ?_)
  · rintro ⟨slot, id⟩ ⟨slot', id'⟩ ⟨k, q⟩ h h'
    simp only [Option.mem_def, Option.map_eq_some_iff, Prod.mk.injEq] at h h'
    obtain ⟨q₁, rfl, rfl, rfl⟩ := h
    obtain ⟨q₂, rfl, rfl, rfl⟩ := h'
    rfl
  · rw [List.zipIdx_map_snd]
    exact List.nodup_range'

/-- The only pending request is the only candidate. -/
theorem candidates_of_only (hr : Pending s id r) (honly : ∀ k q, Pending s k q → k = id)
    (hs : hasStep s id r = true) : candidates s = [(id, r)] := by
  have hnodup : (candidates s).Nodup := (pendingRequests_nodup s).filter _
  refine List.perm_singleton.1 ((List.perm_ext_iff_of_nodup hnodup (List.nodup_singleton _)).2 ?_)
  rintro ⟨k, q⟩
  rw [mem_candidates, List.mem_singleton]
  constructor
  · rintro ⟨hq, -⟩
    obtain rfl := honly k q hq
    exact Prod.ext rfl (Option.some.inj (Option.some.inj (hq.symm.trans hr)))
  · rintro h
    cases h
    exact ⟨hr, hs⟩

theorem engineMove_of_only (hr : Pending s id r) (honly : ∀ k q, Pending s k q → k = id) :
    engineMove s = if hasStep s id r then performRequest s id r else .next s := by
  split_ifs with hs
  · simp only [engineMove, candidates_of_only hr honly hs]
  · obtain ⟨-, hmove⟩ | ⟨k, q, n, hq, hq', -⟩ := engineMove_waits_or_performs s
    · exact hmove
    · obtain rfl := honly k q hq
      cases hq.symm.trans hr
      exact absurd hq' hs

theorem performEvent_of_pending (hr : Pending s id r) :
    performEvent s id = if hasStep s id r then performRequest s id r else .next s := by
  unfold Pending at hr
  simp only [performEvent, hr]

/-- Settles O49: with a turn at the request, or no other pending, the step performs it if the engine has a step. -/
theorem stepRunsTheDecodedOperation : Obligations.StepRunsTheDecodedOperation := by
  intro s s0 id r i hturn hr hdec
  have hstep : step s = if hasStep s0 id r then performRequest s0 id r else .next s0 := by
    obtain ⟨hevents, rfl, honly⟩ | ⟨es, hevents, rfl⟩ := hturn
    · rw [step_of_no_events hevents, engineMove_of_only hr honly]
    · exact (step_of_perform hevents).trans (performEvent_of_pending hr)
  rw [performRequest_legal hdec] at hstep
  refine ⟨fun hne => ?_, fun hrefused => ?_⟩
  · have hs : hasStep s0 id r = true := eq_true_of_ne_false fun hfalse =>
      hne ((performRequest_legal hdec).symm.trans (hasStep_eq_false.1 hfalse))
    exact hstep.trans (if_pos hs)
  · have hs : hasStep s0 id r = false := hasStep_eq_false.2 ((performRequest_legal hdec).trans hrefused)
    exact hstep.trans (if_neg (ne_true_of_eq_false hs))

/-- Settles O50. -/
theorem stepAnswersAnIllegalCommand : Obligations.StepAnswersAnIllegalCommand := by
  intro s es id r hevents hr hillegal
  have hperform := performRequest_of_illegal (s := { s with events := es }) (id := id) hillegal
  rw [step_of_perform hevents, performEvent_of_pending (s := { s with events := es }) hr,
    if_pos (hasStep_of_next hperform), hperform]

/-! ## Any step -/

theorem dropEvent_of_no_events (h : s.events = []) : s.dropEvent = s := by
  cases s
  cases h
  rfl

/-- Everything a step that answers can do: take an event and wait, perform a pending request the engine has a step
for, issue, or reset. -/
theorem step_next (h : step s = .next t) :
    t = s.dropEvent ∨
    (∃ id r n, Pending s id r ∧ hasStep s id r = true ∧
      performRequest { s.dropEvent with freeTick := n } id r = .next t) ∨
    (∃ id, t = s.dropEvent.issue id) ∨
    ∃ es, s.events = .reset :: es ∧ t = s.dropEvent.resetBlock := by
  obtain ⟨hevents, hstep⟩ | ⟨id, es, -, hstep⟩ | ⟨id, es, -, hstep⟩ | ⟨es, hevents, hstep⟩ := step_cases s <;>
    rw [hstep] at h
  · rw [dropEvent_of_no_events hevents]
    obtain ⟨-, hmove⟩ | ⟨id, r, n, hr, hs, hmove⟩ := engineMove_waits_or_performs s <;> rw [hmove] at h
    · cases h
      exact .inl rfl
    · exact .inr (.inl ⟨id, r, n, hr, hs, h⟩)
  · cases h
    exact .inr (.inr (.inl ⟨id, rfl⟩))
  · obtain hwait | ⟨r, hr, hs, hperform⟩ := performEvent_cases s.dropEvent id
    · rw [hwait] at h
      cases h
      exact .inl rfl
    · rw [hperform] at h
      exact .inr (.inl ⟨id, r, s.freeTick, hr, (hasStep_congr (s' := s) (s := s.dropEvent) rfl id id r).trans hs, h⟩)
  · cases h
    exact .inr (.inr (.inr ⟨es, hevents, rfl⟩))

/-- A step answers: the engine performs only what it has a step for. -/
theorem step_answers (s : State) : s.Answers := by
  obtain ⟨-, hstep⟩ | ⟨id, es, -, hstep⟩ | ⟨id, es, -, hstep⟩ | ⟨es, -, hstep⟩ := step_cases s <;>
    rw [State.Answers, hstep]
  · obtain ⟨-, hmove⟩ | ⟨id, r, n, -, hs, hmove⟩ := engineMove_waits_or_performs s <;> rw [hmove]
    · exact ⟨s, rfl⟩
    · exact performRequest_at_tick hs n
  · exact ⟨_, rfl⟩
  · obtain hwait | ⟨r, -, hs, hperform⟩ := performEvent_cases s.dropEvent id
    · exact ⟨_, hwait⟩
    · rw [hperform]
      exact performRequest_of_hasStep hs
  · exact ⟨_, rfl⟩

/-- Settles O60: every step of a run answers, so the run goes on. -/
theorem everyRunIsSafe : Obligations.EveryRunIsSafe := by
  refine fun s => ⟨step_answers s, fun k => ?_⟩
  induction k generalizing s with
  | zero => exact ⟨s, rfl⟩
  | succ k ih =>
    obtain ⟨t, ht⟩ := step_answers s
    rw [run_succ ht]
    exact ih t

/-! ## Issuing and reset -/

/-- Settles O53. -/
theorem issuingFillsTheEmptySlot : Obligations.IssuingFillsTheEmptySlot := by
  intro s es id hevents
  refine ⟨fun r rest hempty hnext => ?_, fun r hr => ?_⟩ <;> rw [step_of_issue hevents]
  · simp only [State.issue, hempty, hnext]
  · unfold Pending at hr
    simp only [State.issue, hr]

/-- Settles O57. -/
theorem resetDiscardsAndKeeps : Obligations.ResetDiscardsAndKeeps := fun _ _ hevents =>
  ⟨_, step_of_reset hevents, rfl, rfl⟩

/-! ## The parameters and the counter -/

@[simp] theorem issue_params (s : State) (id : Nat) : (s.issue id).params = s.params := by
  obtain h | ⟨r, rest, -, -, h⟩ := issue_cases s id <;> rw [h]

@[simp] theorem issue_seqCtr (s : State) (id : Nat) : (s.issue id).seqCtr = s.seqCtr := by
  obtain h | ⟨r, rest, -, -, h⟩ := issue_cases s id <;> rw [h]

theorem lt_of_pending (h : Pending s id r) : id < s.pending.length := (List.getElem?_eq_some_iff.1 h).1

/-- Settles O55. -/
theorem onlyAllocationsAndResetWriteTheCounter : Obligations.OnlyAllocationsAndResetWriteTheCounter := by
  intro s t h
  obtain rfl | ⟨id, r, n, hr, -, hperform⟩ | ⟨id, rfl⟩ | ⟨es, hevents, rfl⟩ := step_next h
  · exact ⟨rfl, .inl rfl⟩
  · obtain ⟨x, hx⟩ := performRequest_delivers hperform
    refine ⟨hx.params, ?_⟩
    obtain ⟨i, hdec, halloc, hctr, -⟩ | ⟨-, hctr⟩ := performRequest_seqCtr hperform
    · refine .inr (.inl ⟨id, r, i, hr, hdec, halloc, ?_, hctr⟩)
      rw [hx.pending]
      exact List.getElem?_set_self (lt_of_pending hr)
    · exact .inl hctr
  · exact ⟨issue_params .., .inl (issue_seqCtr ..)⟩
  · exact ⟨rfl, .inr (.inr ⟨es, hevents, rfl⟩)⟩

end

/-! ## Two producers -/

/-- A `PKT_NEW` within `MAX_LEN` waits in the slot of a requester that has a response port. -/
structure WaitsForNumber (s : State) (id : Nat) (q : Request) : Prop where
  pending : Pending s id q
  cmd : q.cmd = 0x08
  within : q.wellFormed s.params = true
  id_eq : q.id = id
  port : id < s.inbox.length

section

variable {s t : State} {i j n : Nat} {q r : Request}

theorem performRequest_pktNew (h : WaitsForNumber s i q) :
    performRequest s i q = .next (((s.accept i q).withSeq (s.seqCtr + 1)).deliver
      { status := .ok, pkt := some (newPacket q (s.seqCtr + 1)) }) := by
  have hdec : decode q.cmd = .ok .pktNew := h.cmd ▸ decode_encode .pktNew
  have hwithin := h.within
  simp only [Request.wellFormed, Packet.wellFormed, Bool.and_eq_true] at hwithin
  obtain ⟨⟨-, hpayload⟩, hbuf⟩ := hwithin
  rw [performRequest_legal hdec]
  exact exec_pktNew ⟨withinMaxLen_iff.2 hbuf, withinMaxLen_iff.2 hpayload⟩

theorem WaitsForNumber.hasStep (h : WaitsForNumber s i q) : hasStep s i q = true :=
  hasStep_of_next (performRequest_pktNew h)

/-- The step from `s` to `t` gives requester `k` the next number, in the response `y`. -/
structure HandsOut (s t : State) (k : Nat) (y : Response) : Prop where
  step : step s = .next t
  events : t.events = []
  params : t.params = s.params
  seqCtr : t.seqCtr = s.seqCtr + 1
  pending : t.pending = s.pending.set k none
  inbox : t.inbox = s.inbox.set k (some y)
  number : y.pkt.map Packet.seq = some (s.seqCtr + 1)

/-- With `PKT_NEW`s alone pending, the step hands the next number to one of the requesters that wait. -/
theorem exists_handsOut (hevents : s.events = []) (hi : WaitsForNumber s i q)
    (hall : ∀ k x, Pending s k x → WaitsForNumber s k x) : ∃ k x t y, Pending s k x ∧ HandsOut s t k y := by
  obtain ⟨k, x, n, hx, -, hstep⟩ := enginePerformsOneOfThePending s hevents ⟨i, q, hi.pending, hi.hasStep⟩
  have hwaits : WaitsForNumber { s with freeTick := n } k x := { hall k x hx with }
  have hperform := performRequest_pktNew hwaits
  exact ⟨k, x, _, { status := .ok, pkt := some (newPacket x (s.seqCtr + 1)) }, hx, {
    step := hstep.trans hperform
    events := hevents
    params := rfl
    seqCtr := rfl
    pending := rfl
    inbox := by simp [hwaits.id_eq]
    number := rfl }⟩

/-- Of two producers, once the one has its number the other gets the number after it. -/
theorem exists_second {y : Response} (hij : i ≠ j) (hi : i < s.inbox.length) (hj : WaitsForNumber s j r)
    (honly : ∀ k x, Pending s k x → k = i ∨ k = j) (ht : HandsOut s t i y) :
    ∃ u z, step t = .next u ∧ u.seqCtr = s.seqCtr + 2 ∧ u.inbox[i]? = some (some y) ∧ u.inbox[j]? = some (some z) ∧
      z.pkt.map Packet.seq = some (s.seqCtr + 2) := by
  have hwaits : WaitsForNumber t j r := {
    pending := by rw [Pending, ht.pending, List.getElem?_set_ne hij, hj.pending]
    cmd := hj.cmd
    within := by rw [ht.params, hj.within]
    id_eq := hj.id_eq
    port := by rw [ht.inbox, List.length_set]; exact hj.port }
  have hother {k : Nat} {x : Request} (hx : Pending t k x) : k = j := by
    rw [Pending, ht.pending] at hx
    have hki : k ≠ i := fun h => by simp [h, List.getElem?_set] at hx
    rw [List.getElem?_set_ne hki.symm] at hx
    exact (honly k x hx).resolve_left hki
  have hall (k : Nat) (x : Request) (hx : Pending t k x) : WaitsForNumber t k x := by
    obtain rfl := hother hx
    cases hx.symm.trans hwaits.pending
    exact hwaits
  obtain ⟨k, x, u, z, hx, hu⟩ := exists_handsOut ht.events hwaits hall
  obtain rfl := hother hx
  have hnumber : t.seqCtr + 1 = s.seqCtr + 2 := by rw [ht.seqCtr, BitVec.add_assoc]; rfl
  refine ⟨u, z, hu.step, hu.seqCtr.trans hnumber, ?_, ?_, hu.number.trans (congrArg some hnumber)⟩
  · rw [hu.inbox, List.getElem?_set_ne hij.symm, ht.inbox, List.getElem?_set_self hi]
  · rw [hu.inbox, List.getElem?_set_self hwaits.port]

/-- Settles O52: whichever of the two the first step performs, the second performs the other. -/
theorem twoProducersGetDistinctNumbers : Obligations.TwoProducersGetDistinctNumbers := by
  intro s i j q r hinv hevents hij hi hj honly hq hr hqfit hrfit
  have hwaits {k : Nat} {x : Request} (hx : Pending s k x) (hcmd : x.cmd = 0x08) (hfit : x.wellFormed s.params = true) :
      WaitsForNumber s k x :=
    ⟨hx, hcmd, hfit, hinv.pending_id k x hx,
      (lt_of_pending hx).trans_eq (hinv.pending_length.trans hinv.inbox_length.symm)⟩
  have hiw := hwaits hi hq hqfit
  have hjw := hwaits hj hr hrfit
  have hall (k : Nat) (x : Request) (hx : Pending s k x) : WaitsForNumber s k x := by
    obtain rfl | rfl := honly k x hx
    · cases hx.symm.trans hi
      exact hiw
    · cases hx.symm.trans hj
      exact hjw
  obtain ⟨k, x, t, y, hx, ht⟩ := exists_handsOut hevents hiw hall
  obtain rfl | rfl := honly k x hx
  · obtain ⟨u, z, hu, hctr, hy, hz, hnumber⟩ := exists_second hij hiw.port hjw honly ht
    exact ⟨t, u, y, z, ht.step, hu, hctr, hy, hz, .inl ⟨ht.number, hnumber⟩⟩
  · obtain ⟨u, z, hu, hctr, hy, hz, hnumber⟩ :=
      exists_second hij.symm hjw.port hiw (fun k x hx => (honly k x hx).symm) ht
    exact ⟨t, u, z, y, ht.step, hu, hctr, hz, hy, .inr ⟨hnumber, ht.number⟩⟩

end

end Sys2Proof.Machine
end

section
/-! PROOFS. The invariant between two steps, and what a run without events does to the pending requests
(spec/10_state.md, spec/60_exceptions.md section 6). -/

namespace Sys2Proof.Machine

open Sys2Proof.Claims

/-! ## Legal responses -/

section

variable {P : Params}

theorem legalResponse_of_ok {r : Response} (hstatus : r.status = .ok) (herr : r.err = none)
    (hfit : outputFits P r = true) : legalResponse P r = true := by
  simp [legalResponse, hstatus, herr, hfit]

/-- An error that an operation on a buffer of the block can end with makes a legal response. -/
theorem legalResponse_errorResponse {n : Nat} {e : CodecError} (he : Deliverable n e) (hn : P.fits n = true) :
    legalResponse P (errorResponse e) = true := by
  have hoffset {k : Nat} (hk : k ≤ n) : P.fits k = true := fits_mono hk hn
  have hzero : P.fits 0 = true := hoffset (Nat.zero_le n)
  cases e with
  | missingStart => simp [legalResponse, legalError, errorResponse, errorStatus, errorRecord, outputFits, hzero]
  | truncatedFrame k S =>
    obtain ⟨hk, hS⟩ := he
    simp [legalResponse, legalError, errorResponse, errorStatus, errorRecord, outputFits, hoffset hk, hS]
  | missingEnd | badCode | trailingEsc | rawMarker | checksumMismatch =>
    simp [legalResponse, legalError, errorResponse, errorStatus, errorRecord, outputFits, hoffset he]
  | trailingBytes | illegalOp => exact he.elim

end

/-! ## Steps keep the invariant -/

section

variable {s t : State} {i : Instr} {id : Nat} {x : Response}

/-- The decoder's registers are those of `s`, or free values within their widths; so is `ENC_OUT`. -/
structure KeepsOrFrees (s t : State) : Prop where
  dec : t.dec = s.dec ∨ ∃ n, t.dec = freeDecRegs s.params n
  encOut : t.encOut = s.encOut ∨ ∃ B, t.encOut = boundBytes s.params B

theorem keepsOrFrees_raiseError (s : State) (e : CodecError) : KeepsOrFrees s (s.raiseError e) := by
  refine ⟨?_, .inl (s.raiseError_encOut e)⟩
  obtain ⟨c, -, h⟩ | ⟨-, h⟩ := raiseError_cases s e <;> rw [h]
  · exact .inl rfl
  · exact .inr ⟨_, rfl⟩

theorem keepsOrFrees_leftBy (s : State) (i : Instr) (r : Response) : KeepsOrFrees s ((leftBy s i).deliver r) := by
  cases i with
  | encode => exact ⟨.inl rfl, .inr ⟨_, rfl⟩⟩
  | decode => exact ⟨.inr ⟨_, rfl⟩, .inl rfl⟩
  | _ => exact ⟨.inl rfl, .inl rfl⟩

/-- Delivering a legal response keeps the invariant. -/
theorem State.Inv.of_delivers (hs : s.Inv) (h : Delivers s t x) (hregs : KeepsOrFrees s t)
    (hx : legalResponse s.params x = true) : t.Inv where
  params_wellFormed := h.params ▸ hs.params_wellFormed
  pending_length := by rw [h.pending, h.params, hs.pending_length]
  inbox_length := by rw [h.inbox, List.length_set, h.params, hs.inbox_length]
  toIssue_length := by rw [h.toIssue, h.params, hs.toIssue_length]
  pending_id := h.pending ▸ hs.pending_id
  req_id := by rw [h.req, h.params]; exact hs.req_id
  dec_idle := by
    obtain hdec | ⟨n, hdec⟩ := hregs.dec <;> rw [hdec]
    · exact hs.dec_idle
    · rfl
  dec_pos := by
    obtain hdec | ⟨n, hdec⟩ := hregs.dec <;> rw [hdec, h.params]
    · exact hs.dec_pos
    · exact fits_boundNat ..
  dec_len := by
    obtain hdec | ⟨n, hdec⟩ := hregs.dec <;> rw [hdec, h.params]
    · exact hs.dec_len
    · exact fits_boundNat ..
  dec_payload := by
    obtain hdec | ⟨n, hdec⟩ := hregs.dec <;> rw [hdec, h.params]
    · exact hs.dec_payload
    · exact fits_boundBytes ..
  encOut_length := by
    obtain hout | ⟨B, hout⟩ := hregs.encOut <;> rw [hout, h.params]
    · exact hs.encOut_length
    · exact fits_boundBytes ..
  rsp_legal r hr := by
    cases hr.symm.trans h.rsp
    rwa [h.params]
  inbox_legal r hr := by
    rw [h.inbox] at hr
    rw [h.params]
    obtain hr | hr := List.mem_or_eq_of_mem_set hr
    · exact hs.inbox_legal r hr
    · cases hr
      exact hx

theorem exec_keeps_inv (hs : s.Inv) (h : exec i s = .next t) : t.Inv := by
  have hbuf := (operandsFit_iff.1 (perform_next (exec_eq_perform i s ▸ h)).1).1
  obtain ⟨r, hr, hfit, rfl⟩ | ⟨e, he, rfl⟩ := exec_next h
  · obtain ⟨hstatus, herr, -⟩ := resultOf_ok hr
    exact hs.of_delivers (delivers_leftBy s i r) (keepsOrFrees_leftBy s i r) (legalResponse_of_ok hstatus herr hfit)
  · exact hs.of_delivers (delivers_raiseError s e) (keepsOrFrees_raiseError s e)
      (legalResponse_errorResponse (resultOf_error he).2 hbuf)

theorem lt_nReq_of_pending {q : Request} (hs : s.Inv) (hq : Pending s id q) : id < s.params.nReq :=
  hs.pending_length ▸ lt_of_pending hq

theorem accept_keeps_inv {q : Request} (hs : s.Inv) (hq : Pending s id q) : (s.accept id q).Inv := { hs with
  pending_length := by rw [State.accept_pending, List.length_set]; exact hs.pending_length
  pending_id := fun k p hk => by
    rw [State.accept_pending, List.getElem?_set] at hk
    split_ifs at hk
    · cases hk
    · exact hs.pending_id k p hk
  req_id := by
    show q.id < s.params.nReq
    rw [hs.pending_id id q hq]
    exact lt_nReq_of_pending hs hq }

theorem performRequest_keeps_inv {q : Request} (hs : s.Inv) (hq : Pending s id q)
    (h : performRequest s id q = .next t) : t.Inv := by
  have haccept := accept_keeps_inv hs hq
  cases hdec : decode q.cmd with
  | ok i =>
    rw [performRequest_legal hdec] at h
    exact exec_keeps_inv haccept h
  | error e =>
    rw [performRequest_illegal hdec] at h
    cases h
    exact haccept.of_delivers (delivers_raiseError ..) (keepsOrFrees_raiseError ..) rfl

theorem issue_keeps_inv (hs : s.Inv) (id : Nat) : (s.issue id).Inv := by
  obtain h | ⟨q, rest, -, -, h⟩ := issue_cases s id <;> rw [h]
  · exact hs
  · exact { hs with
      pending_length := by rw [List.length_set]; exact hs.pending_length
      toIssue_length := by rw [List.length_set]; exact hs.toIssue_length
      pending_id := fun k p hk => by
        rw [List.getElem?_set] at hk
        split_ifs at hk with hid
        · cases hk
          exact hid
        · exact hs.pending_id k p hk }

theorem nReq_pos {P : Params} (hP : P.wellFormed = true) : 0 < P.nReq := by
  simp only [Params.wellFormed, Params.nReqLegal, Bool.and_eq_true, decide_eq_true_eq] at hP
  exact hP.2

theorem fits_zero (P : Params) : P.fits 0 = true := fits_iff.2 fun _ _ => Nat.zero_le _

theorem resetOf_inv {P : Params} (hP : P.wellFormed = true) : (State.resetOf P).Inv where
  params_wellFormed := hP
  pending_length := List.length_replicate
  inbox_length := List.length_replicate
  toIssue_length := List.length_replicate
  pending_id id r h := absurd h (not_pending_resetOf P id r)
  req_id := nReq_pos hP
  dec_idle := rfl
  dec_pos := fits_zero P
  dec_len := fits_zero P
  dec_payload := fits_zero P
  encOut_length := fits_zero P
  rsp_legal _ h := nomatch h
  inbox_legal r h := absurd h (not_mem_inbox_resetOf P r)

/-- Reset discards what is pending, and keeps the responses received and the requests to issue. -/
theorem resetBlock_keeps_inv (hs : s.Inv) : s.resetBlock.Inv := { resetOf_inv hs.params_wellFormed with
  inbox_length := hs.inbox_length
  toIssue_length := hs.toIssue_length
  inbox_legal := hs.inbox_legal }

/-- Settles O58. -/
theorem resetMeetsTheInvariant : Obligations.ResetMeetsTheInvariant := ⟨resetOf_inv (by decide), fun _ => resetOf_inv⟩

theorem step_keeps_inv (hs : s.Inv) (h : step s = .next t) : t.Inv := by
  have hdrop : s.dropEvent.Inv := { hs with }
  obtain rfl | ⟨id, q, n, hq, -, hperform⟩ | ⟨id, rfl⟩ | ⟨es, -, rfl⟩ := step_next h
  · exact hdrop
  · exact performRequest_keeps_inv (s := { s.dropEvent with freeTick := n }) { hs with } hq hperform
  · exact issue_keeps_inv hdrop id
  · exact resetBlock_keeps_inv hdrop

/-- Settles O59: an operation by the legality of what it delivers, issuing and reset by what they write. -/
theorem stepKeepsTheInvariant : Obligations.StepKeepsTheInvariant := fun _ _ => step_keeps_inv

end

/-! ## A run without events -/

/-- Among the first `n` steps from `s` is one that performs the request, and `t` has the response that it delivered at
the requester. -/
def AnsweredWithin (n : Nat) (s t : State) (id : Nat) (r : Request) : Prop :=
  ∃ k w m v x, k < n ∧ Host.Core.run Sys2Proof.core k s = .next w ∧ Pending w id r ∧
    performRequest { w with freeTick := m } id r = .next v ∧ Host.Core.run Sys2Proof.core (k + 1) s = .next v ∧
    v.rsp = some x ∧ t.inbox[id]? = some (some x)

/-- After `n` steps from `s` the machine is in `t`, with nothing pending that it has a step for; responses reach only
the requesters that had a request pending. -/
structure SettlesIn (n : Nat) (s t : State) : Prop where
  run : Host.Core.run Sys2Proof.core n s = .next t
  left : ∀ id r, Pending t id r → Pending s id r ∧ hasStep t id r = false
  answered : s.Inv → ∀ id r, Pending s id r → hasStep s id r = true → AnsweredWithin n s t id r
  kept : s.Inv → ∀ id, (∀ r, ¬Pending s id r) → t.inbox[id]? = s.inbox[id]?

section

variable {s t v : State} {n m i : Nat} {q : Request}

theorem run_of_waiting (h : step s = .next s) (n : Nat) : Host.Core.run Sys2Proof.core n s = .next s := by
  induction n with
  | zero => rfl
  | succ n ih => rw [run_succ h, ih]

theorem settlesIn_of_waiting (hstep : step s = .next s) (hnone : ∀ id r, Pending s id r → hasStep s id r = false)
    (n : Nat) : SettlesIn n s s where
  run := run_of_waiting hstep n
  left id r h := ⟨h, hnone id r h⟩
  answered _ id r h hs := by simp [hnone id r h] at hs
  kept _ _ _ := rfl

/-- Taking a request empties its slot and no other. -/
theorem pending_of_set_none {id : Nat} {r : Request} (h : v.pending = s.pending.set i none) :
    Pending v id r ↔ id ≠ i ∧ Pending s id r := by
  rw [Pending, Pending, h, List.getElem?_set]
  split_ifs with hid
  · simp [hid]
  · simp [hid]
  · simp [Ne.symm hid]

/-- A step that performs a request, and then `n` steps that settle the rest. -/
theorem SettlesIn.of_step (hq : Pending s i q) (hstep : step s = performRequest { s with freeTick := m } i q)
    (hv : performRequest { s with freeTick := m } i q = .next v) (h : SettlesIn n v t) : SettlesIn (n + 1) s t := by
  obtain ⟨x, hx⟩ := performRequest_delivers hv
  have hsv : step s = .next v := hstep.trans hv
  have hparams : v.params = s.params := hx.params
  have hpending {id : Nat} {r : Request} : Pending v id r ↔ id ≠ i ∧ Pending s id r := pending_of_set_none hx.pending
  have hinbox (hs : s.Inv) : v.inbox = s.inbox.set i (some x) := by
    rw [← hs.pending_id i q hq]
    exact hx.inbox
  have hport (hs : s.Inv) : i < s.inbox.length := hs.inbox_length ▸ lt_nReq_of_pending hs hq
  refine ⟨(run_succ hsv n).trans h.run, fun id r hr => ?_, fun hs id r hr hcan => ?_, fun hs id hid => ?_⟩
  · obtain ⟨hr', hnot⟩ := h.left id r hr
    exact ⟨(hpending.1 hr').2, hnot⟩
  · by_cases hid : id = i
    · subst hid
      cases hr.symm.trans hq
      refine ⟨0, s, m, v, x, Nat.succ_pos n, rfl, hq, hv, run_succ hsv 0, hx.rsp, ?_⟩
      rw [h.kept (step_keeps_inv hs hsv) id fun r hr => (hpending.1 hr).1 rfl, hinbox hs,
        List.getElem?_set_self (hport hs)]
    · obtain ⟨k, w, m', v', x', hk, hw, hwr, hv', hrun, hx', hbox⟩ :=
        h.answered (step_keeps_inv hs hsv) id r (hpending.2 ⟨hid, hr⟩) ((hasStep_congr hparams id id r).trans hcan)
      exact ⟨k + 1, w, m', v', x', Nat.succ_lt_succ hk, (run_succ hsv k).trans hw, hwr, hv',
        (run_succ hsv (k + 1)).trans hrun, hx', hbox⟩
  · have hne : id ≠ i := fun h => hid q (h ▸ hq)
    rw [h.kept (step_keeps_inv hs hsv) id fun r hr => hid r (hpending.1 hr).2, hinbox hs,
      List.getElem?_set_ne hne.symm]

/-- Each request taken is one less to perform. -/
theorem countP_set_none {slots : List (Option Request)} (h : slots[i]? = some (some q)) :
    (slots.set i none).countP Option.isSome + 1 = slots.countP Option.isSome := by
  obtain ⟨hlt, hslot⟩ := List.getElem?_eq_some_iff.1 h
  have hpos : 0 < slots.countP Option.isSome :=
    List.countP_pos_iff.2 ⟨some q, hslot ▸ List.getElem_mem hlt, rfl⟩
  rw [List.countP_set hlt, hslot]
  simp
  omega

theorem exists_settlesIn (hevents : s.events = []) (hn : s.pending.countP Option.isSome ≤ n) :
    ∃ t, SettlesIn n s t := by
  induction n generalizing s with
  | zero =>
    have hnone (id : Nat) (r : Request) (hr : Pending s id r) : hasStep s id r = false := by
      have hcount := countP_set_none hr
      omega
    exact ⟨s, rfl, fun id r hr => ⟨hr, hnone id r hr⟩, fun _ id r hr hs => by simp [hnone id r hr] at hs,
      fun _ _ _ => rfl⟩
  | succ n ih =>
    obtain ⟨hnone, hmove⟩ | ⟨i, q, m, hq, hcan, hmove⟩ := engineMove_waits_or_performs s <;>
      rw [← step_of_no_events hevents] at hmove
    · exact ⟨s, settlesIn_of_waiting hmove hnone (n + 1)⟩
    · obtain ⟨v, hv⟩ := performRequest_at_tick hcan m
      obtain ⟨x, hx⟩ := performRequest_delivers hv
      have hcount : v.pending.countP Option.isSome ≤ n := by
        have hless := countP_set_none hq
        rw [hx.pending]
        exact Nat.le_of_succ_le_succ (hless.trans_le hn)
      obtain ⟨t, ht⟩ := ih (hx.events.trans hevents) hcount
      exact ⟨t, ht.of_step hq hmove hv⟩

/-- Settles O54: there are no more requests pending than slots. -/
theorem pendingRequestsArePerformed : Obligations.PendingRequestsArePerformed := by
  intro s hevents
  obtain ⟨t, ht⟩ := exists_settlesIn hevents List.countP_le_length
  exact ⟨t, ht.run, ht.left, ht.answered⟩

end

end Sys2Proof.Machine
end
